-- ==== Sys2Proof/Word.lean ====
section
/-! DEFINITION. The word types of the CORE link codec, and the one combinator that makes an evaluation strict. -/

namespace Sys2Proof

/-- One byte: a symbol of a buffer, a field element, a byte of a frame (R9, R10). -/
abbrev Byte := BitVec 8

/-- The 32-bit value of a register or of a command word (R7, R11). -/
abbrev Word := BitVec 32

/-- `strict x f` is `f x`, with `x` brought to a numeral before `f` is entered. It changes no value
(`Laws.strict_eq`); it keeps long loops flat when Lean's kernel evaluates them. -/
@[inline] def strict {w : Nat} {α : Type} (x : BitVec w) (f : BitVec w → α) : α :=
  match x.toNat with
  | 0 => f 0#w
  | k + 1 => f (BitVec.ofNat w (k + 1))

end Sys2Proof
end

