-- ==== Sys2Proof/Config.lean ====
section
/-! DEFINITION. The parameters the spec leaves OPEN (00_scope.md R8): constants without a body, so that whatever is
proved holds for every value of them; and the one value it leaves undefined (R142). LAT, which is a function of the
state, stands beside State in Machine/State.lean (`Config.lat`). BUS_PROTOCOL is out of the transaction-level model (R8, R80). -/

namespace Sys2Proof

/-- CORE_BASE divided by 4096 (R8, R81): which 4096-byte page of the host's address space the window fills. -/
opaque Config.coreBasePage : Nat

/-- CORE_BASE (R8, R81): the host address of byte offset 0x000, a multiple of 4096. -/
def Config.coreBase : Nat := 4096 * Config.coreBasePage

/-- IRQ_LINE (R8, R309): the input of the host's interrupt controller that the block's output drives. -/
opaque Config.irqLine : Nat

/-- GF.inv(0), which the spec leaves undefined (40_rs_codec.md R142: "GF.inv(0) is not defined"); no rule calls it. -/
opaque Config.gfInvOfZero : BitVec 8

end Sys2Proof
end

