-- ==== Sys2Proof/Machine/State.lean ====
section
/-! DEFINITION. Everything the spec gives the block as state (10_state.md), the host's side of the bus as plain data, the
reasons a step may stop, and the state after reset (70_reset_and_hazards.md R320). -/

namespace Sys2Proof.Machine

/-- R31: the sequencer's two states. STATUS.BUSY is 1 exactly in `busy` (R36). -/
inductive Seq where
  | idle
  | busy
deriving DecidableEq, Repr

/-- The values of STATUS.ERRCODE (60_exceptions.md R293 to R307), in the order of their numbers 0x00 to 0x0E. -/
inductive ErrCode where
  | none            -- 0x00 ERR_NONE            R293
  | illegal         -- 0x01 ERR_ILLEGAL         R294
  | notInit         -- 0x02 ERR_NOT_INIT        R295
  | noKey           -- 0x03 ERR_NO_KEY          R296
  | len             -- 0x04 ERR_LEN             R297
  | arg             -- 0x05 ERR_ARG             R298
  | uncorrectable   -- 0x06 ERR_UNCORRECTABLE   R299
  | auth            -- 0x07 ERR_AUTH            R300
  | overflow        -- 0x08 ERR_OVERFLOW        R301
  | flag            -- 0x09 ERR_FLAG            R302
  | corrupt         -- 0x0A ERR_CORRUPT         R303
  | fcs             -- 0x0B ERR_FCS             R304
  | frameType       -- 0x0C ERR_FRAME_TYPE      R305
  | pid             -- 0x0D ERR_PID             R306
  | ucmd            -- 0x0E ERR_UCMD            R307
deriving DecidableEq, Repr

/-- An 8-byte register group (R58): CS_LO and CS_HI. -/
structure Group8 where
  lo : Word
  hi : Word
deriving DecidableEq, Repr

/-- A 7-byte register group (R58, R45): bits 31:24 of the second register hold no byte and are not stored (RAZ/WI). -/
structure Group7 where
  r0 : Word
  r1 : BitVec 24
deriving DecidableEq, Repr

/-- A 16-byte register group (R58): KEY0..3, IV0..3, TAG0..3; and KEYSTATE, packed in the same way. -/
structure Group16 where
  r0 : Word
  r1 : Word
  r2 : Word
  r3 : Word
deriving DecidableEq, Repr

/-- R80: the sizes of a host access, 1, 2 or 4 bytes. -/
inductive BusWidth where
  | w1
  | w2
  | w4
deriving DecidableEq, Repr

/-- What the host, or the platform, does in one turn (R80, R118, R119, R320). The host is outside the block: its
operations are the block's input (R69). -/
inductive HostOp where
  /-- `rd8/rd16/rd32 OFF`: MemRead(off, n) (R80, R118). -/
  | read (n : BusWidth) (off : BitVec 12)
  /-- `wr8/wr16/wr32 OFF, V`: MemWrite(off, n, v); only the low n bytes of `v` are on the bus (R80, R85, R118). -/
  | write (n : BusWidth) (off : BitVec 12) (v : Word)
  /-- A write of the value the last read returned, XORed with `mask`: the `t` of R119's `copy`, the `a XOR 0x01` of 95's P4. -/
  | writeBack (n : BusWidth) (off : BitVec 12) (mask : Word)
  /-- A load at a host address: it reaches the block only inside its window (R81). -/
  | readAt (n : BusWidth) (addr : Nat)
  /-- A store at a host address (R81). -/
  | writeAt (n : BusWidth) (addr : Nat) (v : Word)
  /-- R119's `wait`: reads STATUS, once a turn, until BUSY reads 0. -/
  | wait
  /-- The host issues nothing in this turn. -/
  | idle
  /-- The platform asserts reset (R320, R321). -/
  | reset
deriving DecidableEq, Repr

/-- The state of the block (10_state.md), then the model's own four fields. -/
structure State where
  /-- SEQ (R31). -/
  seq : Seq
  /-- CUR, the command word in flight (R31). -/
  cur : Word
  /-- CTRL.IRQ_EN (R33). -/
  irqEn : Bool
  /-- STATUS.DONE (R37). -/
  done : Bool
  /-- STATUS.ACCERR (R38). -/
  accErr : Bool
  /-- STATUS.ERRCODE (R39). -/
  errCode : ErrCode
  /-- STATUS.NCORR (R40). -/
  nCorr : BitVec 5
  /-- STATUS.RS_READY (R41). -/
  rsReady : Bool
  /-- STATUS.KEY_VALID (R42). -/
  keyValid : Bool
  /-- CS_LO, CS_HI (R43). -/
  cs : Group8
  /-- ADDR_CFG bits 8:0 (R44). -/
  addrCfg : BitVec 9
  /-- DEST0, DEST1 (R45). -/
  dest : Group7
  /-- SRC0, SRC1 (R46). -/
  src : Group7
  /-- ICTRL bits 14:0 (R47). -/
  ictrl : BitVec 15
  /-- UF_LEN (R48). -/
  ufLen : BitVec 9
  /-- TX_LEN (R49). -/
  txLen : BitVec 9
  /-- TX_LIMIT (R50). -/
  txLimit : BitVec 9
  /-- RX_LEN (R51). -/
  rxLen : BitVec 9
  /-- AES_LEN (R52). -/
  aesLen : BitVec 8
  /-- KEY0..KEY3, KEYIN (R53). -/
  keyIn : Group16
  /-- IV0..IV3 (R54). -/
  iv : Group16
  /-- TAG0..TAG3 (R55). -/
  tag : Group16
  /-- RXI bits 23:0 (R56). -/
  rxi : BitVec 24
  /-- RXDEST0, RXDEST1 (R57). -/
  rxDest : Group7
  /-- RXSRC0, RXSRC1 (R57). -/
  rxSrc : Group7
  /-- KEYSTATE (R62), hidden. -/
  keyState : Group16
  /-- The buffers MSG, CW, ADATA, UF, TX, RX (R63 to R68), by block offset (R88). -/
  mem : List Host.Cell
  /-- The model's own: host turns left before the command in flight completes. -/
  latLeft : Nat
  /-- The model's own: LAT - 1 of the coming acceptances, where the environment fixes it. -/
  lats : List Nat
  /-- The model's own: what the host does from here on. -/
  host : List HostOp
  /-- The model's own: the values returned to the host, newest first. -/
  readLog : List Word
deriving DecidableEq, Repr

/-- What stops the machine: nothing. "No condition halts the block or makes it stuck" (R310), so no constructor: a
machine that never faults. Raised by nobody; safe, since a proof cannot lean on a stop that does not exist. -/
inductive Fault where
deriving DecidableEq, Repr

/-- Why an instruction has no meaning. -/
inductive Refusal where
  /-- Raised by an arm of `exec` for an instruction that has no meaning yet; safe (the model stops). No arm raises it. -/
  | notModelled (mnemonic : String)
deriving DecidableEq, Repr

/-- A 7-byte, 8-byte or 16-byte group of zero bytes (R320). -/
def zero7 : Group7 := ⟨0#32, 0#24⟩
/-- See `zero7`. -/
def zero8 : Group8 := ⟨0#32, 0#32⟩
/-- See `zero7`. -/
def zero16 : Group16 := ⟨0#32, 0#32, 0#32, 0#32⟩

/-- R320: every piece of state at its reset value; all are 0 but TX_LIMIT = 331. CUR, which R31 leaves unspecified and calls
unobservable, is 0: DESIGN CHOICE (notes/assumptions/1.md). The model's own fields are empty (notes/assumptions/2.md, 3.md, 6.md). -/
def State.reset : State where
  seq := .idle
  cur := 0#32
  irqEn := false
  done := false
  accErr := false
  errCode := .none
  nCorr := 0#5
  rsReady := false
  keyValid := false
  cs := zero8
  addrCfg := 0#9
  dest := zero7
  src := zero7
  ictrl := 0#15
  ufLen := 0#9
  txLen := 0#9
  txLimit := 331#9
  rxLen := 0#9
  aesLen := 0#8
  keyIn := zero16
  iv := zero16
  tag := zero16
  rxi := 0#24
  rxDest := zero7
  rxSrc := zero7
  keyState := zero16
  mem := []
  latLeft := 0
  lats := []
  host := []
  readLog := []

end Sys2Proof.Machine

namespace Sys2Proof

/-- LAT(cmd, state) - 1 (R8, R291, R330): how many host turns pass between the acceptance of a command word in a state and
its completion. OPEN: any function into the natural numbers, since LAT is finite and at least 1. -/
opaque Config.lat : Word → Machine.State → Nat

end Sys2Proof
end

