-- ==== Sys2Proof/Machine/Bytes.lean ====
section
/-! DEFINITION. Byte order and bit order: register groups as byte sequences (10_state.md R58), little-endian host words
(20_memory.md R85), big-endian integers (41_aes.md R185, R186), and the bit streams of the link (42_ax25_framer.md R232). -/

namespace Sys2Proof.Machine

/-- R58, R85: byte k of a 32-bit word is bits 8k+7:8k. -/
def wordByte (w : Word) (k : Nat) : Byte := w.extractLsb' (8 * k) 8

/-- R58: the four bytes of a register, byte 0 first. -/
def wordBytes (w : Word) : List Byte := [wordByte w 0, wordByte w 1, wordByte w 2, wordByte w 3]

/-- R58, R85: the little-endian word of at most four bytes; missing bytes are 0. -/
def leWord (l : List Byte) : Word := l.getD 3 0#8 ++ l.getD 2 0#8 ++ l.getD 1 0#8 ++ l.getD 0 0#8

/-- R58, R43: CS[0..8). -/
def group8Bytes (g : Group8) : List Byte := wordBytes g.lo ++ wordBytes g.hi

/-- R58, R45: the 7 bytes of an address group. -/
def group7Bytes (g : Group7) : List Byte := wordBytes g.r0 ++ (wordBytes (g.r1.setWidth 32)).take 3

/-- R58, R45: the group that holds 7 bytes. -/
def group7Of (l : List Byte) : Group7 := ⟨leWord (l.take 4), (leWord ((l.drop 4).take 3)).setWidth 24⟩

/-- R58: the 16 bytes of a group. -/
def group16Bytes (g : Group16) : List Byte := wordBytes g.r0 ++ wordBytes g.r1 ++ wordBytes g.r2 ++ wordBytes g.r3

/-- R58: the group that holds 16 bytes. -/
def group16Of (l : List Byte) : Group16 :=
  ⟨leWord (l.take 4), leWord ((l.drop 4).take 4), leWord ((l.drop 8).take 4), leWord ((l.drop 12).take 4)⟩

/-- `int_be` of a byte sequence read into n bits, first byte most significant (R185, R186). -/
def intBe (n : Nat) (l : List Byte) : BitVec n :=
  go l 0#n
where
  go : List Byte → BitVec n → BitVec n
    | [], acc => acc
    | b :: bs, acc => strict ((acc <<< 8) ||| b.setWidth n) (go bs)

/-- The big-endian encoding of v in k bytes (R186: be32, be64, be128). -/
def beBytes {n : Nat} : Nat → BitVec n → List Byte
  | 0, _ => []
  | k + 1, v => v.extractLsb' (8 * k) 8 :: beBytes k v

/-- R232: the bits of one byte, bit 0 first. -/
def byteBits (b : Byte) : List Bool := (List.range 8).map fun k => b.getLsbD k

/-- R232: `bitsLSB`. -/
def bitsLSB (l : List Byte) : List Bool := l.flatMap byteBits

/-- R232: the byte whose bit k is the k-th of eight bits. -/
def byteOfBits (b0 b1 b2 b3 b4 b5 b6 b7 : Bool) : Byte :=
  BitVec.ofBool b7 ++ BitVec.ofBool b6 ++ BitVec.ofBool b5 ++ BitVec.ofBool b4 ++
    BitVec.ofBool b3 ++ BitVec.ofBool b2 ++ BitVec.ofBool b1 ++ BitVec.ofBool b0

/-- R232: `packLSB`, eight bits to a byte; fewer than eight bits at the end make no byte (R261). -/
def packLSB : List Bool → List Byte
  | b0 :: b1 :: b2 :: b3 :: b4 :: b5 :: b6 :: b7 :: rest => byteOfBits b0 b1 b2 b3 b4 b5 b6 b7 :: packLSB rest
  | _ => []

/-- Bytewise exclusive or, as long as the shorter sequence (R185). -/
def xorBytes (a b : List Byte) : List Byte := List.zipWith (· ^^^ ·) a b

end Sys2Proof.Machine
end

