-- ==== Sys2Proof/Machine/AesCipher.lean ====
section
/-! DEFINITION. The AES-128 forward cipher (41_aes.md R180 to R184). -/

namespace Sys2Proof.Machine

/-- R180: xtime, in GF(2^8) modulo 0x11B. -/
def aesXtime (a : Byte) : Byte := (a <<< 1) ^^^ (if a.getLsbD 7 then 0x1B#8 else 0#8)

/-- R181: SBOX(a), row the high nibble, column the low one. -/
def sbox (a : Byte) : Byte := (sboxRows.getD (a.toNat / 16) []).getD (a.toNat % 16) 0#8

/-- R182: mul2. -/
def mul2 (a : Byte) : Byte := aesXtime a

/-- R182: mul3. -/
def mul3 (a : Byte) : Byte := aesXtime a ^^^ a

/-- One column of the state, s[0][c] to s[3][c] (R180), or one four-byte word of the key schedule (R183). -/
structure Col where
  b0 : Byte
  b1 : Byte
  b2 : Byte
  b3 : Byte
deriving DecidableEq, Repr

/-- The 4x4 state by its columns (R180). -/
structure AesState where
  c0 : Col
  c1 : Col
  c2 : Col
  c3 : Col
deriving DecidableEq, Repr

/-- Bytewise exclusive or of two words (R183). -/
def colXor (a b : Col) : Col := ⟨a.b0 ^^^ b.b0, a.b1 ^^^ b.b1, a.b2 ^^^ b.b2, a.b3 ^^^ b.b3⟩

/-- The word of the bytes l[i..i+4). -/
def colAt (l : List Byte) (i : Nat) : Col := ⟨l.getD i 0#8, l.getD (i + 1) 0#8, l.getD (i + 2) 0#8, l.getD (i + 3) 0#8⟩

/-- The bytes of a word. -/
def colBytes (c : Col) : List Byte := [c.b0, c.b1, c.b2, c.b3]

/-- R180: s[r][c] = X[r + 4c]. -/
def aesLoad (x : List Byte) : AesState := ⟨colAt x 0, colAt x 4, colAt x 8, colAt x 12⟩

/-- R180: the output is read back the same way. -/
def aesBytes (s : AesState) : List Byte := colBytes s.c0 ++ colBytes s.c1 ++ colBytes s.c2 ++ colBytes s.c3

/-- SubBytes on one column. -/
def subCol (c : Col) : Col := ⟨sbox c.b0, sbox c.b1, sbox c.b2, sbox c.b3⟩

/-- R182: SubBytes. -/
def subBytes (s : AesState) : AesState := ⟨subCol s.c0, subCol s.c1, subCol s.c2, subCol s.c3⟩

/-- R182: ShiftRows, s'[r][c] = s[r][(c + r) mod 4]. -/
def shiftRows (s : AesState) : AesState :=
  ⟨⟨s.c0.b0, s.c1.b1, s.c2.b2, s.c3.b3⟩, ⟨s.c1.b0, s.c2.b1, s.c3.b2, s.c0.b3⟩,
   ⟨s.c2.b0, s.c3.b1, s.c0.b2, s.c1.b3⟩, ⟨s.c3.b0, s.c0.b1, s.c1.b2, s.c2.b3⟩⟩

/-- R182: MixColumns on one column. -/
def mixCol (c : Col) : Col :=
  ⟨mul2 c.b0 ^^^ mul3 c.b1 ^^^ c.b2 ^^^ c.b3, c.b0 ^^^ mul2 c.b1 ^^^ mul3 c.b2 ^^^ c.b3,
   c.b0 ^^^ c.b1 ^^^ mul2 c.b2 ^^^ mul3 c.b3, mul3 c.b0 ^^^ c.b1 ^^^ c.b2 ^^^ mul2 c.b3⟩

/-- R182: MixColumns. -/
def mixColumns (s : AesState) : AesState := ⟨mixCol s.c0, mixCol s.c1, mixCol s.c2, mixCol s.c3⟩

/-- The column with its four bytes brought to numerals (`strict`): the column itself. -/
def evalCol (c : Col) : Col :=
  strict c.b0 fun b0 => strict c.b1 fun b1 => strict c.b2 fun b2 => strict c.b3 fun b3 => ⟨b0, b1, b2, b3⟩

/-- R182: AddRoundKey with the round key's four words. -/
def addRoundKey (k s : AesState) : AesState :=
  ⟨evalCol (colXor s.c0 k.c0), evalCol (colXor s.c1 k.c1), evalCol (colXor s.c2 k.c2), evalCol (colXor s.c3 k.c3)⟩

/-- R183: SubWord(RotWord(t)), with RCON[i/4] on its first byte. -/
def keyCore (rc : Byte) (t : Col) : Col := ⟨sbox t.b1 ^^^ rc, sbox t.b2, sbox t.b3, sbox t.b0⟩

/-- R183: the words w[4n..4n+4) of a round from those of the round before it and RCON[n]. -/
def nextRoundKey (rc : Byte) (w : AesState) : AesState :=
  let w0 := evalCol (colXor w.c0 (keyCore rc w.c3))
  let w1 := evalCol (colXor w.c1 w0)
  let w2 := evalCol (colXor w.c2 w1)
  let w3 := evalCol (colXor w.c3 w2)
  ⟨w0, w1, w2, w3⟩

/-- R183: the round keys 1.. for the round constants left, from the words of the round before. -/
def roundKeysGo : List Byte → AesState → List AesState
  | [], _ => []
  | rc :: rcs, w => nextRoundKey rc w :: roundKeysGo rcs (nextRoundKey rc w)

/-- R183: the eleven round keys, w[4n..4n+4) for n = 0..10. -/
def roundKeys (k : List Byte) : List AesState := aesLoad k :: roundKeysGo rcon (aesLoad k)

/-- R184: the rounds for the round keys left; the last one has no MixColumns. -/
def aesRounds : List AesState → AesState → AesState
  | [], s => s
  | [k], s => addRoundKey k (shiftRows (subBytes s))
  | k :: ks, s => aesRounds ks (addRoundKey k (mixColumns (shiftRows (subBytes s))))

/-- R184: AES.enc(K, X). -/
def aesEnc (k x : List Byte) : List Byte :=
  match roundKeys k with
  | [] => []
  | k0 :: ks => aesBytes (aesRounds ks (addRoundKey k0 (aesLoad x)))

end Sys2Proof.Machine
end

