-- ==== Sys2Proof/Machine/AesModes.lean ====
section
/-! DEFINITION. Counter mode and GCM over the forward cipher (41_aes.md R185 to R189). -/

namespace Sys2Proof.Machine

/-- Sixteen zero bytes. -/
def zeroBlock : List Byte := List.replicate 16 0#8

/-- R185: the next counter block of counter mode, T + 1 modulo 2^128. -/
def incFull (t : BitVec 128) : BitVec 128 := t + 1#128

/-- R186: inc32, which counts in the low 32 bits only. -/
def inc32 (t : BitVec 128) : BitVec 128 := t.extractLsb' 32 96 ++ (t.extractLsb' 0 32 + 1#32)

/-- R185: the keystream of n blocks from counter block t, each next one by `inc`. -/
def keystream (k : List Byte) (inc : BitVec 128 → BitVec 128) : Nat → BitVec 128 → List Byte
  | 0, _ => []
  | n + 1, t => aesEnc k (beBytes 16 t) ++ strict (inc t) (keystream k inc n)

/-- R185: data XOR the first len(D) bytes of the keystream of ceil(n/16) blocks. -/
def ctrWith (inc : BitVec 128 → BitVec 128) (k : List Byte) (t : BitVec 128) (d : List Byte) : List Byte :=
  xorBytes d (keystream k inc ((d.length + 15) / 16) t)

/-- R185: CTR(K, IV, D). -/
def aesCtrMode (k iv d : List Byte) : List Byte := ctrWith incFull k (intBe 128 iv) d

/-- R186: GCTR(K, ICB, D). -/
def gctr (k : List Byte) (icb : BitVec 128) (d : List Byte) : List Byte := ctrWith inc32 k icb d

/-- R186: mul128's loop; n counts the bits of X left, the highest first. -/
def mul128Go (x : BitVec 128) : Nat → BitVec 128 → BitVec 128 → BitVec 128
  | 0, z, _ => z
  | n + 1, z, v =>
    strict (if x.getLsbD n then z ^^^ v else z) fun z' =>
      strict (if v.getLsbD 0 then (v >>> 1) ^^^ 0xE1000000000000000000000000000000#128 else v >>> 1) fun v' =>
        mul128Go x n z' v'

/-- R186: mul128(X, Y). -/
def mul128 (x y : BitVec 128) : BitVec 128 := mul128Go x 128 0#128 y

/-- R186: GHASH over n blocks, from the value y on. -/
def ghashGo (h : BitVec 128) : Nat → List Byte → BitVec 128 → BitVec 128
  | 0, _, y => y
  | n + 1, l, y => strict (mul128 (y ^^^ intBe 128 (l.take 16)) h) (ghashGo h n (l.drop 16))

/-- R186: GHASH(H, X), for len(X) a multiple of 16. -/
def ghash (h : BitVec 128) (x : List Byte) : BitVec 128 := ghashGo h (x.length / 16) x 0#128

/-- R187: H. -/
def gcmH (k : List Byte) : BitVec 128 := intBe 128 (aesEnc k zeroBlock)

/-- R187: J0 for the 16-byte IV, as an integer. -/
def gcmJ0 (k iv : List Byte) : BitVec 128 :=
  ghash (gcmH k) (iv ++ List.replicate 8 0#8 ++ beBytes 8 (BitVec.ofNat 64 128))

/-- R188, R189: Sg = GHASH(H, C ++ zeros(u) ++ be64(0) ++ be64(8n)). -/
def gcmHashOf (k c : List Byte) : BitVec 128 :=
  ghash (gcmH k)
    (c ++ List.replicate ((16 - c.length % 16) % 16) 0#8 ++ beBytes 8 (0#64) ++ beBytes 8 (BitVec.ofNat 64 (8 * c.length)))

/-- R188, R189: the tag AES.enc(K, J0) XOR be128(Sg) of a ciphertext. -/
def gcmTag (k iv c : List Byte) : List Byte :=
  xorBytes (aesEnc k (beBytes 16 (gcmJ0 k iv))) (beBytes 16 (gcmHashOf k c))

/-- R188, R189: the data part, GCTR from inc32(J0). -/
def gcmCrypt (k iv d : List Byte) : List Byte := gctr k (inc32 (gcmJ0 k iv)) d

/-- R188: GCMenc(K, IV, P) = (C, T). -/
def gcmEnc (k iv p : List Byte) : List Byte × List Byte :=
  let c := gcmCrypt k iv p
  (c, gcmTag k iv c)

/-- R189: GCMdec(K, IV, C, T), `none` for AuthFail. -/
def gcmDec (k iv c t : List Byte) : Option (List Byte) :=
  if gcmTag k iv c ≠ t then none else some (gcmCrypt k iv c)

end Sys2Proof.Machine
end

