-- ==== Sys2Proof/Syntax.lean ====
section
/-! DEFINITION. The commands of the block: one constructor of `Instr` per row of spec/opcode_table.json (30_encoding.md
R114), and the three fields of a command word (R110). -/

namespace Sys2Proof

/-- SEL, the operand of AX25_ADDR (R112): which address register the command writes. -/
inductive AddrSel where
  | dest   -- SEL = 0: DEST_ADDR
  | src    -- SEL = 1: SRC_ADDR
deriving DecidableEq, Repr

/-- A command (R114). Every other operand is implicit: a register or a buffer its rule names. -/
inductive Instr where
  | rsInit                                     -- RS_INIT       0x01  R154
  | rsRelease                                  -- RS_RELEASE    0x02  R155
  | rsEncode                                   -- RS_ENCODE     0x03  R156
  | rsDecode                                   -- RS_DECODE     0x04  R157
  | aesSetkey                                  -- AES_SETKEY    0x10  R190
  | aesCtr                                     -- AES_CTR       0x11  R192
  | aesGcmEnc                                  -- AES_GCM_ENC   0x12  R193
  | aesGcmDec                                  -- AES_GCM_DEC   0x13  R194
  | ax25Addr (sel : AddrSel)                   -- AX25_ADDR     0x20  R240
  | ax25FrameI                                 -- AX25_FRAME_I  0x21  R241
  | ax25FrameU (ucmd : BitVec 2) (pf : Bool)   -- AX25_FRAME_U  0x22  R242
  | ax25Stuff                                  -- AX25_STUFF    0x23  R243
  | ax25Unstuff                                -- AX25_UNSTUFF  0x30  R263
  | ax25Recv                                   -- AX25_RECV     0x31  R267
deriving DecidableEq, Repr

/-- The fields of the one command format (R110): OPCODE, ARG, RSVD. -/
structure CmdFields where
  opcode : BitVec 8
  arg    : BitVec 4
  rsvd   : BitVec 20
deriving DecidableEq, Repr

end Sys2Proof
end

