-- ==== Sys2Proof/WellFormed.lean ====
section
/-! DEFINITION. What makes the fields of a command word well formed (30_encoding.md R111 to R113), one named check each,
and the well-formedness of a command: that of the fields it stands for. -/

namespace Sys2Proof

/-- R113: RSVD is 0. -/
def CmdFields.rsvdClear (f : CmdFields) : Bool := f.rsvd == 0#20

/-- R111, R114: OPCODE is one of the 14 defined values. -/
def CmdFields.opcodeDefined (f : CmdFields) : Bool :=
  [0x01#8, 0x02#8, 0x03#8, 0x04#8, 0x10#8, 0x11#8, 0x12#8, 0x13#8,
   0x20#8, 0x21#8, 0x22#8, 0x23#8, 0x30#8, 0x31#8].contains f.opcode

/-- R112: the ARG bits that may be 1: SEL for AX25_ADDR, PF and UCMD for AX25_FRAME_U, none for the others. -/
def argMay (opcode : BitVec 8) : BitVec 4 :=
  if opcode = 0x20#8 then 0b0001#4 else if opcode = 0x22#8 then 0b0111#4 else 0#4

/-- R112: every ARG bit that must be 0 is 0. -/
def CmdFields.argClear (f : CmdFields) : Bool := f.arg &&& ~~~(argMay f.opcode) == 0#4

/-- The three checks together: R116 calls a word that fails one of them illegal. -/
def CmdFields.wellFormed (f : CmdFields) : Bool := f.rsvdClear && f.opcodeDefined && f.argClear

/-- The fields a command stands for (R112, R114). -/
def Instr.fields : Instr → CmdFields
  | .rsInit => ⟨0x01#8, 0#4, 0#20⟩
  | .rsRelease => ⟨0x02#8, 0#4, 0#20⟩
  | .rsEncode => ⟨0x03#8, 0#4, 0#20⟩
  | .rsDecode => ⟨0x04#8, 0#4, 0#20⟩
  | .aesSetkey => ⟨0x10#8, 0#4, 0#20⟩
  | .aesCtr => ⟨0x11#8, 0#4, 0#20⟩
  | .aesGcmEnc => ⟨0x12#8, 0#4, 0#20⟩
  | .aesGcmDec => ⟨0x13#8, 0#4, 0#20⟩
  | .ax25Addr .dest => ⟨0x20#8, 0#4, 0#20⟩
  | .ax25Addr .src => ⟨0x20#8, 1#4, 0#20⟩
  | .ax25FrameI => ⟨0x21#8, 0#4, 0#20⟩
  | .ax25FrameU ucmd pf => ⟨0x22#8, 0#1 ++ BitVec.ofBool pf ++ ucmd, 0#20⟩
  | .ax25Stuff => ⟨0x23#8, 0#4, 0#20⟩
  | .ax25Unstuff => ⟨0x30#8, 0#4, 0#20⟩
  | .ax25Recv => ⟨0x31#8, 0#4, 0#20⟩

/-- A command is well formed when its fields are. The operand types already bound the operands (UCMD has two bits, SEL two
values), so every command is: `Laws.EncodesItsFields`. -/
def Instr.wellFormed (i : Instr) : Bool := i.fields.wellFormed

end Sys2Proof
end

