-- ==== Sys2Proof/Decode.lean ====
section
/-! DEFINITION. The decoder of command words, written from 30_encoding.md R110 to R115, total and rejecting by name; after it the
encoder, written from R117's words; and the opcode table in mask/match form (R115, spec/opcode_table.json). -/

namespace Sys2Proof

/-- Why a word is illegal (R113, R111, R112). -/
inductive DecodeReject where
  | reservedBits      -- RSVD is not 0 (R113)
  | undefinedOpcode   -- OPCODE is not one of the 14 (R111)
  | argBits           -- an ARG bit that must be 0 is 1 (R112)
deriving DecidableEq, Repr

/-- The result of decoding: `Command | Illegal` (R115). -/
inductive Decoded where
  | command (i : Instr)
  | illegal (why : DecodeReject)
deriving DecidableEq, Repr

/-- R110: OPCODE = word[7:0], ARG = word[11:8], RSVD = word[31:12]. -/
def splitWord (w : Word) : CmdFields :=
  ⟨w.extractLsb' 0 8, w.extractLsb' 8 4, w.extractLsb' 12 20⟩

/-- The commands whose ARG must be 0 (R112). -/
def decodeNoArg (arg : BitVec 4) (i : Instr) : Decoded :=
  if arg = 0#4 then .command i else .illegal .argBits

/-- R112, R115: AX25_ADDR takes SEL from ARG[0]; ARG[3:1] must be 0. -/
def decodeAddr (arg : BitVec 4) : Decoded :=
  if arg.extractLsb' 1 3 = 0#3 then .command (.ax25Addr (if arg.getLsbD 0 then .src else .dest)) else .illegal .argBits

/-- R112, R115: AX25_FRAME_U takes UCMD from ARG[1:0] and PF from ARG[2]; ARG[3] must be 0. -/
def decodeFrameU (arg : BitVec 4) : Decoded :=
  if arg.getLsbD 3 then .illegal .argBits else .command (.ax25FrameU (arg.extractLsb' 0 2) (arg.getLsbD 2))

/-- R115: `case op of`. -/
def decodeFields (op : BitVec 8) (arg : BitVec 4) : Decoded :=
  if op = 0x01#8 then decodeNoArg arg .rsInit
  else if op = 0x02#8 then decodeNoArg arg .rsRelease
  else if op = 0x03#8 then decodeNoArg arg .rsEncode
  else if op = 0x04#8 then decodeNoArg arg .rsDecode
  else if op = 0x10#8 then decodeNoArg arg .aesSetkey
  else if op = 0x11#8 then decodeNoArg arg .aesCtr
  else if op = 0x12#8 then decodeNoArg arg .aesGcmEnc
  else if op = 0x13#8 then decodeNoArg arg .aesGcmDec
  else if op = 0x20#8 then decodeAddr arg
  else if op = 0x21#8 then decodeNoArg arg .ax25FrameI
  else if op = 0x22#8 then decodeFrameU arg
  else if op = 0x23#8 then decodeNoArg arg .ax25Stuff
  else if op = 0x30#8 then decodeNoArg arg .ax25Unstuff
  else if op = 0x31#8 then decodeNoArg arg .ax25Recv
  else .illegal .undefinedOpcode

/-- R115: the total function from words to `Command | Illegal`. -/
def decode (w : Word) : Decoded :=
  let f := splitWord w
  if f.rsvd ≠ 0#20 then .illegal .reservedBits else decodeFields f.opcode f.arg

/-- The decoder over the four bytes of a CMD write, low byte first (R85); any other number of bytes carries no command word
(R83), and is read as no word at all. -/
def decodeBytes : List Byte → Option Decoded
  | [b0, b1, b2, b3] => some (decode (b3 ++ b2 ++ b1 ++ b0))
  | _ => none

/-- The word of a command, as R117 lists it. -/
def encode : Instr → Word
  | .rsInit => 0x00000001#32
  | .rsRelease => 0x00000002#32
  | .rsEncode => 0x00000003#32
  | .rsDecode => 0x00000004#32
  | .aesSetkey => 0x00000010#32
  | .aesCtr => 0x00000011#32
  | .aesGcmEnc => 0x00000012#32
  | .aesGcmDec => 0x00000013#32
  | .ax25Addr .dest => 0x00000020#32
  | .ax25Addr .src => 0x00000120#32
  | .ax25FrameI => 0x00000021#32
  | .ax25FrameU ucmd pf => 0x22#32 ||| (ucmd.setWidth 32 <<< 8) ||| ((BitVec.ofBool pf).setWidth 32 <<< 10)
  | .ax25Stuff => 0x00000023#32
  | .ax25Unstuff => 0x00000030#32
  | .ax25Recv => 0x00000031#32

/-- One row of spec/opcode_table.json: a word `w` selects it when `w &&& mask = pattern` (R115). -/
structure OpcodeRow where
  mnemonic : String
  mask     : Word
  pattern  : Word
deriving DecidableEq, Repr

/-- The 14 rows of spec/opcode_table.json. -/
def opcodeTable : List OpcodeRow :=
  [⟨"RS_INIT", 0xFFFFFFFF#32, 0x00000001#32⟩, ⟨"RS_RELEASE", 0xFFFFFFFF#32, 0x00000002#32⟩,
   ⟨"RS_ENCODE", 0xFFFFFFFF#32, 0x00000003#32⟩, ⟨"RS_DECODE", 0xFFFFFFFF#32, 0x00000004#32⟩,
   ⟨"AES_SETKEY", 0xFFFFFFFF#32, 0x00000010#32⟩, ⟨"AES_CTR", 0xFFFFFFFF#32, 0x00000011#32⟩,
   ⟨"AES_GCM_ENC", 0xFFFFFFFF#32, 0x00000012#32⟩, ⟨"AES_GCM_DEC", 0xFFFFFFFF#32, 0x00000013#32⟩] ++
  [⟨"AX25_ADDR", 0xFFFFFEFF#32, 0x00000020#32⟩, ⟨"AX25_FRAME_I", 0xFFFFFFFF#32, 0x00000021#32⟩,
   ⟨"AX25_FRAME_U", 0xFFFFF8FF#32, 0x00000022#32⟩, ⟨"AX25_STUFF", 0xFFFFFFFF#32, 0x00000023#32⟩,
   ⟨"AX25_UNSTUFF", 0xFFFFFFFF#32, 0x00000030#32⟩, ⟨"AX25_RECV", 0xFFFFFFFF#32, 0x00000031#32⟩]

/-- A word selects a row (R115). -/
def OpcodeRow.selects (r : OpcodeRow) (w : Word) : Bool := w &&& r.mask == r.pattern

/-- The row of a command (R114). -/
def mnemonicOf : Instr → String
  | .rsInit => "RS_INIT"
  | .rsRelease => "RS_RELEASE"
  | .rsEncode => "RS_ENCODE"
  | .rsDecode => "RS_DECODE"
  | .aesSetkey => "AES_SETKEY"
  | .aesCtr => "AES_CTR"
  | .aesGcmEnc => "AES_GCM_ENC"
  | .aesGcmDec => "AES_GCM_DEC"
  | .ax25Addr _ => "AX25_ADDR"
  | .ax25FrameI => "AX25_FRAME_I"
  | .ax25FrameU _ _ => "AX25_FRAME_U"
  | .ax25Stuff => "AX25_STUFF"
  | .ax25Unstuff => "AX25_UNSTUFF"
  | .ax25Recv => "AX25_RECV"

/-- What the decoder reads from the command word whose bits are `w`, numbered as spec/opcode_table.json numbers them. Every
command is one 32-bit word (R110), so bits above 31 do not exist and bits above `nbits` are 0. -/
def decodeTableWord (nbits w : Nat) : Option Instr :=
  match decode (BitVec.ofNat 32 (w % 2 ^ nbits)) with
  | .command i => some i
  | .illegal _ => none

end Sys2Proof
end

