-- ==== Sys2Proof/Machine/Flags.lean ====
section
/-! DEFINITION. The STATUS register and the flags in it (10_state.md R35 to R42), and the interrupt output (R70). -/

namespace Sys2Proof.Machine

/-- R293 to R307: the number of an error code. -/
def errNumber : ErrCode → Byte
  | .none => 0x00
  | .illegal => 0x01
  | .notInit => 0x02
  | .noKey => 0x03
  | .len => 0x04
  | .arg => 0x05
  | .uncorrectable => 0x06
  | .auth => 0x07
  | .overflow => 0x08
  | .flag => 0x09
  | .corrupt => 0x0A
  | .fcs => 0x0B
  | .frameType => 0x0C
  | .pid => 0x0D
  | .ucmd => 0x0E

/-- R36: STATUS.BUSY is 1 exactly when SEQ = BUSY. -/
def busyFlag (s : State) : Bool := s.seq == .busy

/-- R35: STATUS, from bit 31 down: reserved 31:26, KEY_VALID, RS_READY, reserved 23:21, NCORR 20:16, ERRCODE 15:8, reserved 7:3,
ACCERR, DONE, BUSY. -/
def statusWord (s : State) : Word :=
  0#6 ++ BitVec.ofBool s.keyValid ++ BitVec.ofBool s.rsReady ++ 0#3 ++ s.nCorr ++ errNumber s.errCode ++ 0#5 ++
    BitVec.ofBool s.accErr ++ BitVec.ofBool s.done ++ BitVec.ofBool (busyFlag s)

/-- R35: a write to STATUS clears DONE where bit 1 is 1 and ACCERR where bit 2 is 1, and changes nothing else. -/
def writeStatus (v : Word) (s : State) : State :=
  { s with done := s.done && !v.getLsbD 1, accErr := s.accErr && !v.getLsbD 2 }

/-- R38, R86: a refused access sets ACCERR and changes nothing else. -/
def setAccErr (s : State) : State := { s with accErr := true }

/-- R290, R291: what every completion does: SEQ <- IDLE, ERRCODE <- the code, DONE <- 1. -/
def finish (code : ErrCode) (s : State) : State := { s with seq := .idle, errCode := code, done := true }

/-- R70, R309: the interrupt output. -/
def irq (s : State) : Bool := s.irqEn && s.done

/-- R309: the inputs of the host's interrupt controller that the block drives. -/
def irqLines (s : State) : List Nat := if irq s then [Config.irqLine] else []

end Sys2Proof.Machine
end

