-- ==== Sys2Proof/Machine/Memory.lean ====
section
/-! DEFINITION. The memory of the block: the six buffers (10_state.md R63 to R68), held by block offset (20_memory.md R82, R88)
as one list of (offset, byte) pairs, offsets strictly rising and no reset byte listed. -/

namespace Sys2Proof.Machine

/-- R32: the six buffers. -/
inductive Buffer where
  | msg
  | cw
  | adata
  | uf
  | tx
  | rx
deriving DecidableEq, Repr

/-- R88: the window offset of byte 0 of a buffer. -/
def bufBase : Buffer → Nat
  | .msg => 0x100
  | .cw => 0x200
  | .adata => 0x300
  | .uf => 0x400
  | .tx => 0x600
  | .rx => 0x800

/-- R82, R63 to R68: the number of valid bytes of a buffer. -/
def bufCap : Buffer → Nat
  | .msg => 223
  | .cw => 255
  | .adata => 207
  | .uf => 276
  | .tx => 331
  | .rx => 331

/-- The six buffers, in the order of their windows. -/
def allBuffers : List Buffer := [.msg, .cw, .adata, .uf, .tx, .rx]

/-- The offsets a to a+n-1 are valid bytes of the buffer (R82, R84). -/
def bufHolds (a n : Nat) (b : Buffer) : Bool := bufBase b ≤ a && a + n ≤ bufBase b + bufCap b

/-- The offset is a valid byte of some buffer (R82). -/
def validOffset (a : Nat) : Bool := allBuffers.any (bufHolds a 1)

/-- What an unlisted offset reads as: 0x00, the reset value of every buffer byte (R63 to R68, R320). -/
def resetByte : Byte := 0x00#8

/-- One byte of memory. -/
def readByte : List Host.Cell → Nat → Byte
  | [], _ => resetByte
  | (b, v) :: rest, a => if b = a then v else readByte rest a

/-- n bytes from offset a on, `B[a..a+n)`. -/
def readBytes (m : List Host.Cell) (a : Nat) : Nat → List Byte
  | 0 => []
  | n + 1 => readByte m a :: readBytes m (a + 1) n

/-- The cells of a byte sequence that starts at offset a: one for each byte that is not the reset byte. -/
def cellsOf (a : Nat) : List Byte → List Host.Cell
  | [] => []
  | v :: rest => if v = resetByte then cellsOf (a + 1) rest else (a, v) :: cellsOf (a + 1) rest

/-- Writes a byte sequence at the offsets from a on; every other offset keeps its byte. -/
def writeBytes (m : List Host.Cell) (a : Nat) (l : List Byte) : List Host.Cell :=
  m.filter (fun c => c.1 < a) ++ cellsOf a l ++ m.filter (fun c => a + l.length ≤ c.1)

/-- The canonical form: offsets strictly rising, valid bytes of a buffer only, no reset byte listed. -/
def memWf : List Host.Cell → Bool
  | [] => true
  | [(a, v)] => validOffset a && v != resetByte
  | (a, v) :: (b, w) :: rest => validOffset a && v != resetByte && decide (a < b) && memWf ((b, w) :: rest)

/-- The whole of a buffer, as R10 reads its name. -/
def bufAll (b : Buffer) (s : State) : List Byte := readBytes s.mem (bufBase b) (bufCap b)

/-- `B[i..j)` of a buffer (R10). -/
def bufSlice (b : Buffer) (i j : Nat) (s : State) : List Byte := readBytes s.mem (bufBase b + i) (j - i)

/-- `B[i]` of a buffer (R10). -/
def bufByte (b : Buffer) (i : Nat) (s : State) : Byte := readByte s.mem (bufBase b + i)

/-- `B[0..len(l)) <- l` (R10): the rest of the buffer, and every other buffer, keeps its bytes. -/
def bufStore (b : Buffer) (l : List Byte) (s : State) : State :=
  { s with mem := writeBytes s.mem (bufBase b) l }

end Sys2Proof.Machine
end

