-- ==== Sys2Proof/Machine/Operands.lean ====
section
/-! DEFINITION. The implicit operands of the commands (30_encoding.md R114): register fields (10_state.md R44, R47), lengths and
byte groups; and the registers as the host reads and writes them (R30, R43 to R57). -/

namespace Sys2Proof.Machine

/-- R44: ADDR_CFG.CS_LEN, bits 3:0. -/
def csLen (s : State) : Nat := (s.addrCfg.extractLsb' 0 4).toNat
/-- R44: ADDR_CFG.SSID, bits 7:4. -/
def ssidField (s : State) : BitVec 4 := s.addrCfg.extractLsb' 4 4
/-- R44: ADDR_CFG.CBIT, bit 8. -/
def cBit (s : State) : Bool := s.addrCfg.getLsbD 8

/-- R47: ICTRL.NS, bits 6:0. -/
def nsField (s : State) : BitVec 7 := s.ictrl.extractLsb' 0 7
/-- R47: ICTRL.P, bit 7. -/
def pBit (s : State) : Bool := s.ictrl.getLsbD 7
/-- R47: ICTRL.NR, bits 14:8. -/
def nrField (s : State) : BitVec 7 := s.ictrl.extractLsb' 8 7

/-- R43: CS[0..8). -/
def callSign (s : State) : List Byte := group8Bytes s.cs
/-- R45: DEST_ADDR. -/
def destAddr (s : State) : List Byte := group7Bytes s.dest
/-- R46: SRC_ADDR. -/
def srcAddr (s : State) : List Byte := group7Bytes s.src
/-- R62: KEYSTATE. -/
def keyBytes (s : State) : List Byte := group16Bytes s.keyState
/-- R54: IV. -/
def ivBytes (s : State) : List Byte := group16Bytes s.iv
/-- R55: TAG. -/
def tagBytes (s : State) : List Byte := group16Bytes s.tag

/-- R191: n = AES_LEN. -/
def aesN (s : State) : Nat := s.aesLen.toNat
/-- R65, R191: ADATA[0..n). -/
def aesData (s : State) : List Byte := bufSlice .adata 0 (aesN s) s

/-- R56: RXI from its fields; bits 7:4 are 0. -/
def rxInfo (uFrame : Bool) (ucmd : BitVec 2) (pf : Bool) (ctrl0 ctrl1 : Byte) : BitVec 24 :=
  ctrl1 ++ ctrl0 ++ 0#4 ++ BitVec.ofBool pf ++ ucmd ++ BitVec.ofBool uFrame

/-- R30: the registers, each under its name. -/
inductive Reg where
  | ctrl | cmd | status | csLo | csHi | addrCfg | dest0 | dest1 | src0 | src1 | ictrl
  | ufLen | txLen | txLimit | rxLen | aesLen
  | key0 | key1 | key2 | key3 | iv0 | iv1 | iv2 | iv3 | tag0 | tag1 | tag2 | tag3
  | rxi | rxDest0 | rxDest1 | rxSrc0 | rxSrc1
deriving DecidableEq, Repr

/-- R30: the register map, offsets 0x000 to 0x044. -/
def regMapLow : List (Nat × Reg) :=
  [(0x000, .ctrl), (0x004, .cmd), (0x008, .status), (0x010, .csLo), (0x014, .csHi), (0x018, .addrCfg),
   (0x020, .dest0), (0x024, .dest1), (0x028, .src0), (0x02C, .src1), (0x030, .ictrl),
   (0x034, .ufLen), (0x038, .txLen), (0x03C, .txLimit), (0x040, .rxLen), (0x044, .aesLen)]

/-- R30: the register map, offsets 0x050 to 0x090. -/
def regMapHigh : List (Nat × Reg) :=
  [(0x050, .key0), (0x054, .key1), (0x058, .key2), (0x05C, .key3),
   (0x060, .iv0), (0x064, .iv1), (0x068, .iv2), (0x06C, .iv3),
   (0x070, .tag0), (0x074, .tag1), (0x078, .tag2), (0x07C, .tag3),
   (0x080, .rxi), (0x084, .rxDest0), (0x088, .rxDest1), (0x08C, .rxSrc0), (0x090, .rxSrc1)]

/-- R30: the register map. Every other offset below 0x100 is reserved (R59). -/
def regMap : List (Nat × Reg) := regMapLow ++ regMapHigh

/-- R30: the register at an offset. -/
def regAt (off : Nat) : Option Reg := regMap.lookup off

end Sys2Proof.Machine
end

