-- ==== Sys2Proof/Machine/Ops.lean ====
section
/-! DEFINITION. The shared operations of the machine: completing a command (60_exceptions.md R290, R291), accepting one (R292), the
host's accesses (20_memory.md R80 to R90), reset (70_reset_and_hazards.md R320, R321) and one turn of the host. -/

namespace Sys2Proof.Machine

/-! ## Completion: the block's only analogue of taking an exception (R310); there is no return (R311) -/

/-- R290: `raise Error(CODE)`: the state the command found, with only STATUS changed. -/
def raiseError (code : ErrCode) (s : State) : Host.Outcome State Fault Refusal := .next (finish code s)

/-- R291: `complete()`: the command's writes, committed in one step with ERR_NONE. -/
def completeOk (s : State) : Host.Outcome State Fault Refusal := .next (finish .none s)

/-! ## Acceptance -/

/-- R8, R291: LAT - 1 of an acceptance: the environment's choice where it made one, else the open parameter. -/
def nextLat (w : Word) (s : State) : Nat :=
  match s.lats with
  | [] => Config.lat w s
  | l :: _ => l

/-- R292: the acceptance of the word w. ACCERR keeps its value. -/
def accept (w : Word) (s : State) : State :=
  { s with
    seq := .busy, cur := w, done := false, errCode := .none, nCorr := 0#5,
    latLeft := nextLat w s, lats := s.lats.tail }

/-! ## Host accesses -/

/-- R80: the number of bytes of an access. -/
def widthBytes : BusWidth → Nat
  | .w1 => 1
  | .w2 => 2
  | .w4 => 4

/-- What an access reaches: a register, or bytes of a buffer from an offset on. -/
inductive Target where
  | reg (r : Reg)
  | bytes (a : Nat)
deriving DecidableEq, Repr

/-- R82 to R84, R59: what an n-byte access at a block offset reaches; none for a reserved offset, a wrong width, a misaligned
offset, or a byte outside the buffer's valid bytes. -/
def targetOf (n : BusWidth) (off : Nat) : Option Target :=
  if off < 0x100 then
    if n = .w4 ∧ off % 4 = 0 then (regAt off).map .reg else none
  else if off % widthBytes n = 0 ∧ allBuffers.any (bufHolds off (widthBytes n)) = true then some (.bytes off)
  else none

/-- R87: CTRL and STATUS are the registers a host may reach while BUSY. -/
def openWhileBusy : Target → Bool
  | .reg .ctrl => true
  | .reg .status => true
  | _ => false

/-- R86: the access has a target that is not closed to it by a command in flight; none: the access is refused. -/
def admitted (n : BusWidth) (off : Nat) (s : State) : Option Target :=
  match targetOf n off with
  | none => none
  | some t => if busyFlag s && !openWhileBusy t then none else some t

/-- R86: exactly the refused accesses. -/
def refusedAccess (n : BusWidth) (off : Nat) (s : State) : Bool := (admitted n off s).isNone

/-- R33 to R57: what a read of a register returns; reserved bits are 0, write-only registers read 0. -/
def readReg (r : Reg) (s : State) : Word :=
  match r with
  | .ctrl => (BitVec.ofBool s.irqEn).setWidth 32
  | .cmd => 0#32
  | .status => statusWord s
  | .csLo => s.cs.lo
  | .csHi => s.cs.hi
  | .addrCfg => s.addrCfg.setWidth 32
  | .dest0 => s.dest.r0
  | .dest1 => s.dest.r1.setWidth 32
  | .src0 => s.src.r0
  | .src1 => s.src.r1.setWidth 32
  | .ictrl => s.ictrl.setWidth 32
  | .ufLen => s.ufLen.setWidth 32
  | .txLen => s.txLen.setWidth 32
  | .txLimit => s.txLimit.setWidth 32
  | .rxLen => s.rxLen.setWidth 32
  | .aesLen => s.aesLen.setWidth 32
  | .key0 => 0#32
  | .key1 => 0#32
  | .key2 => 0#32
  | .key3 => 0#32
  | .iv0 => s.iv.r0
  | .iv1 => s.iv.r1
  | .iv2 => s.iv.r2
  | .iv3 => s.iv.r3
  | .tag0 => s.tag.r0
  | .tag1 => s.tag.r1
  | .tag2 => s.tag.r2
  | .tag3 => s.tag.r3
  | .rxi => s.rxi.setWidth 32
  | .rxDest0 => s.rxDest.r0
  | .rxDest1 => s.rxDest.r1.setWidth 32
  | .rxSrc0 => s.rxSrc.r0
  | .rxSrc1 => s.rxSrc.r1.setWidth 32

/-- R33 to R57, R90: what a write to a register does: CMD requests a command, STATUS clears W1C bits, a read-only register
ignores it, every other register stores its writable bits. -/
def writeReg (r : Reg) (v : Word) (s : State) : State :=
  match r with
  | .ctrl => { s with irqEn := v.getLsbD 0 }
  | .cmd => accept v s
  | .status => writeStatus v s
  | .csLo => { s with cs := { s.cs with lo := v } }
  | .csHi => { s with cs := { s.cs with hi := v } }
  | .addrCfg => { s with addrCfg := v.setWidth 9 }
  | .dest0 => { s with dest := { s.dest with r0 := v } }
  | .dest1 => { s with dest := { s.dest with r1 := v.setWidth 24 } }
  | .src0 => { s with src := { s.src with r0 := v } }
  | .src1 => { s with src := { s.src with r1 := v.setWidth 24 } }
  | .ictrl => { s with ictrl := v.setWidth 15 }
  | .ufLen => { s with ufLen := v.setWidth 9 }
  | .txLen => s
  | .txLimit => { s with txLimit := v.setWidth 9 }
  | .rxLen => { s with rxLen := v.setWidth 9 }
  | .aesLen => { s with aesLen := v.setWidth 8 }
  | .key0 => { s with keyIn := { s.keyIn with r0 := v } }
  | .key1 => { s with keyIn := { s.keyIn with r1 := v } }
  | .key2 => { s with keyIn := { s.keyIn with r2 := v } }
  | .key3 => { s with keyIn := { s.keyIn with r3 := v } }
  | .iv0 => { s with iv := { s.iv with r0 := v } }
  | .iv1 => { s with iv := { s.iv with r1 := v } }
  | .iv2 => { s with iv := { s.iv with r2 := v } }
  | .iv3 => { s with iv := { s.iv with r3 := v } }
  | .tag0 => { s with tag := { s.tag with r0 := v } }
  | .tag1 => { s with tag := { s.tag with r1 := v } }
  | .tag2 => { s with tag := { s.tag with r2 := v } }
  | .tag3 => { s with tag := { s.tag with r3 := v } }
  | .rxi => s
  | .rxDest0 => s
  | .rxDest1 => s
  | .rxSrc0 => s
  | .rxSrc1 => s

/-- R85: an n-byte read at a target: little-endian, zero-extended. -/
def readTarget (n : BusWidth) (t : Target) (s : State) : Word :=
  match t with
  | .reg r => readReg r s
  | .bytes a => leWord (readBytes s.mem a (widthBytes n))

/-- R85: an n-byte write at a target: byte k is bits 8k+7:8k of the value. -/
def writeTarget (n : BusWidth) (t : Target) (v : Word) (s : State) : State :=
  match t with
  | .reg r => writeReg r v s
  | .bytes a => { s with mem := writeBytes s.mem a ((wordBytes v).take (widthBytes n)) }

/-- R80, R86, R89: MemRead(off, n): the value returned, and the state after. A refused read returns 0 and sets ACCERR. -/
def memRead (n : BusWidth) (off : BitVec 12) (s : State) : Word × State :=
  match admitted n off.toNat s with
  | none => (0#32, setAccErr s)
  | some t => (readTarget n t s, s)

/-- R80, R86, R90: MemWrite(off, n, v). A refused write is dropped and sets ACCERR. -/
def memWrite (n : BusWidth) (off : BitVec 12) (v : Word) (s : State) : State :=
  match admitted n off.toNat s with
  | none => setAccErr s
  | some t => writeTarget n t v s

/-- R81: the block offset that a host address reaches; none outside the window. -/
def windowOffset (addr : Nat) : Option (BitVec 12) :=
  if Config.coreBase ≤ addr ∧ addr < Config.coreBase + 4096 then some (BitVec.ofNat 12 (addr - Config.coreBase)) else none

/-! ## The host's turn -/

/-- A read whose value the host keeps (R118: `rd32 OFF -> x`). -/
def hostRead (n : BusWidth) (off : BitVec 12) (s : State) : State :=
  { (memRead n off s).2 with readLog := (memRead n off s).1 :: s.readLog }

/-- R320, R321: reset: every piece of the block's state at its reset value, whatever ran; the host's own side is not the block's. -/
def applyReset (s : State) : State :=
  { State.reset with lats := s.lats, host := s.host, readLog := s.readLog }

/-- The value the last read returned; 0 before any read. -/
def lastRead (s : State) : Word := s.readLog.headD 0#32

/-- One host operation other than `wait` (R118, R320). A host address outside the window reaches no block (R81). -/
def performOp (op : HostOp) (s : State) : State :=
  match op with
  | .read n off => hostRead n off s
  | .write n off v => memWrite n off v s
  | .writeBack n off mask => memWrite n off (lastRead s ^^^ mask) s
  | .readAt n addr => match windowOffset addr with
    | some off => hostRead n off s
    | none => s
  | .writeAt n addr v => match windowOffset addr with
    | some off => memWrite n off v s
    | none => s
  | .wait => hostRead .w4 0x008#12 s
  | .idle => s
  | .reset => applyReset s

/-- Whether the host goes on to its next operation after one, from the state it left: `wait` repeats until BUSY reads 0 (R119). -/
def opDone (op : HostOp) (s : State) : Bool :=
  match op with
  | .wait => !(lastRead s).getLsbD 0
  | _ => true

/-- One turn of the host: its next operation, or nothing where it has none left (R31, R318). -/
def hostTurn (s : State) : State :=
  match s.host with
  | [] => s
  | op :: rest =>
    let t := performOp op { s with host := rest }
    if opDone op t then t else { t with host := op :: rest }

/-- A turn of the host while a command is in flight brings the completion one step nearer (R291, R330); nothing advances in
state IDLE (R31). -/
def tick (s : State) : State := if busyFlag s then { s with latLeft := s.latLeft - 1 } else s

/-- The command in flight completes in this step (R291): LAT steps have passed since its acceptance. -/
def completionDue (s : State) : Bool := busyFlag s && s.latLeft == 0

/-- The word the sequencer runs (R31, R95): CUR, latched from the CMD write. -/
def fetchWord (s : State) : Word := s.cur

/-- R116, R294: an illegal word completes with ERR_ILLEGAL and changes nothing else. -/
def completeIllegal (s : State) : Host.Outcome State Fault Refusal := raiseError .illegal s

end Sys2Proof.Machine
end

