-- ==== Sys2Proof/Machine/AesCommands.lean ====
section
/-! DEFINITION. The commands of the AES engine (41_aes.md R190 to R194). -/

namespace Sys2Proof.Machine

/-- R191, R308: the checks the three data commands share, length first, then key; `run` is what follows them. -/
def aesChecked (s : State) (run : Host.Outcome State Fault Refusal) : Host.Outcome State Fault Refusal :=
  if aesN s > aesCap then raiseError .len s
  else if s.keyValid = false then raiseError .noKey s
  else run

/-- R190: AES_SETKEY. -/
def execAesSetkey (s : State) : Host.Outcome State Fault Refusal :=
  completeOk { s with keyState := s.keyIn, keyValid := true }

/-- R192: AES_CTR. -/
def execAesCtr (s : State) : Host.Outcome State Fault Refusal :=
  aesChecked s (completeOk (bufStore .adata (aesCtrMode (keyBytes s) (ivBytes s) (aesData s)) s))

/-- R193: AES_GCM_ENC. -/
def execAesGcmEnc (s : State) : Host.Outcome State Fault Refusal :=
  aesChecked s
    (match gcmEnc (keyBytes s) (ivBytes s) (aesData s) with
    | (c, t) => completeOk { bufStore .adata c s with tag := group16Of t })

/-- R194: AES_GCM_DEC. -/
def execAesGcmDec (s : State) : Host.Outcome State Fault Refusal :=
  aesChecked s
    (match gcmDec (keyBytes s) (ivBytes s) (aesData s) (tagBytes s) with
    | none => raiseError .auth s
    | some p => completeOk (bufStore .adata p s))

end Sys2Proof.Machine
end

