-- ==== Sys2Proof/Machine/BitStuffing.lean ====
section
/-! DEFINITION. Bit stuffing (42_ax25_framer.md R233 to R235) and unstuffing (43_ax25_deframer.md R260, R261). -/

namespace Sys2Proof.Machine

/-- R233: STUFFBITS, with `ones` ones seen in the current run: a 0 is inserted after every fifth. -/
def stuffBits : Nat → List Bool → List Bool
  | _, [] => []
  | _, false :: bs => false :: stuffBits 0 bs
  | ones, true :: bs =>
    if ones + 1 = 5 then true :: false :: stuffBits 0 bs else true :: stuffBits (ones + 1) bs

/-- R233: ns, the number of inserted bits. -/
def stuffCount : Nat → List Bool → Nat
  | _, [] => 0
  | _, false :: bs => stuffCount 0 bs
  | ones, true :: bs => if ones + 1 = 5 then stuffCount 0 bs + 1 else stuffCount (ones + 1) bs

/-- R234: 0-bits at the end, up to the next multiple of 8. -/
def padBits (s : List Bool) : List Bool := s ++ List.replicate ((8 - s.length % 8) % 8) false

/-- R235: the stuffed frame of a body. -/
def stuffFrame (body : List Byte) : List Byte :=
  flagByte :: (packLSB (padBits (stuffBits 0 (bitsLSB body))) ++ [flagByte])

/-- R260: no 1 follows five 1s, with `ones` ones seen in the current run: UNSTUFFBITS does not return Corrupt. -/
def runsOk : Nat → List Bool → Bool
  | _, [] => true
  | ones, b :: bs =>
    if ones = 5 then !b && runsOk 0 bs else runsOk (if b then ones + 1 else 0) bs

/-- R260: the bits UNSTUFFBITS keeps: all but the one after each run of five 1s. -/
def keptBits : Nat → List Bool → List Bool
  | _, [] => []
  | ones, b :: bs =>
    if ones = 5 then keptBits 0 bs else b :: keptBits (if b then ones + 1 else 0) bs

/-- R260: UNSTUFFBITS; the run counter starts at 0; `none` for Corrupt. -/
def unstuffBits (s : List Bool) : Option (List Bool) := if runsOk 0 s then some (keptBits 0 s) else none

/-- R260, R261: the unstuffed body of a stuffed one; packLSB drops the 0 to 7 bits at the end. -/
def unstuffBody (body : List Byte) : Option (List Byte) := (unstuffBits (bitsLSB body)).map packLSB

end Sys2Proof.Machine
end

