-- ==== Sys2Proof/Machine/Frames.lean ====
section
/-! DEFINITION. AX.25 addresses, the frame check sequence, control fields and frames (42_ax25_framer.md R220 to R230). -/

namespace Sys2Proof.Machine

/-- R221, R223: address byte k of a call sign of `len` characters: the character, or a padding space, shifted left by one. -/
def addrChar (cs : List Byte) (len k : Nat) : Byte := (if k < len then cs.getD k 0#8 else 0x20#8) <<< 1

/-- R222: address byte 6, (C << 7) OR 0x60 OR (SSID << 1) OR E. -/
def ssidByte (ssid : BitVec 4) (c e : Bool) : Byte :=
  BitVec.ofBool c ++ 0b11#2 ++ ssid ++ BitVec.ofBool e

/-- R223: ADDR(CS, len, ssid, c, e). -/
def addrField (cs : List Byte) (len : Nat) (ssid : BitVec 4) (c e : Bool) : List Byte :=
  (List.range 6).map (addrChar cs len) ++ [ssidByte ssid c e]

/-- R224: one bit of the CRC. -/
def crcBit (crc : BitVec 16) : BitVec 16 :=
  if crc.getLsbD 0 then (crc >>> 1) ^^^ crcPoly else crc >>> 1

/-- R224: `repeat` n times. -/
def crcBits : Nat → BitVec 16 → BitVec 16
  | 0, crc => crc
  | n + 1, crc => strict (crcBit crc) (crcBits n)

/-- R224: the loop over the bytes. -/
def crcBytes : List Byte → BitVec 16 → BitVec 16
  | [], crc => crc
  | b :: bs, crc => strict (crcBits 8 (crc ^^^ b.setWidth 16)) (crcBytes bs)

/-- R224: FCS(D). -/
def fcs (d : List Byte) : BitVec 16 := crcBytes d 0xFFFF#16 ^^^ 0xFFFF#16

/-- R225: the FCS bytes, low byte first. -/
def fcsBytes (d : List Byte) : List Byte := [(fcs d).extractLsb' 0 8, (fcs d).extractLsb' 8 8]

/-- R220, R229, R230: flag, header and information, FCS over them, flag. -/
def frameOf (h : List Byte) : List Byte := flagByte :: (h ++ fcsBytes h ++ [flagByte])

/-- R226: CTRL0 = (NS << 1) AND 0xFE. -/
def iCtrl0 (ns : BitVec 7) : Byte := ns ++ 0#1

/-- R226: CTRL1 = ((NR << 1) AND 0xFE) OR P. -/
def iCtrl1 (nr : BitVec 7) (p : Bool) : Byte := nr ++ BitVec.ofBool p

/-- R227: CTRL = 0x03 OR (UCMD << 2) OR (PF << 4). -/
def uCtrl (ucmd : BitVec 2) (pf : Bool) : Byte := 0#3 ++ BitVec.ofBool pf ++ ucmd ++ 0b11#2

/-- R229: IFRAME(dest, src, ns, p, nr, info). -/
def iFrame (dest src : List Byte) (ns : BitVec 7) (p : Bool) (nr : BitVec 7) (info : List Byte) : List Byte :=
  frameOf (dest ++ src ++ [iCtrl0 ns, iCtrl1 nr p, pidByte] ++ info)

/-- R230: UFRAME(dest, src, ucmd, pf). -/
def uFrame (dest src : List Byte) (ucmd : BitVec 2) (pf : Bool) : List Byte :=
  frameOf (dest ++ src ++ [uCtrl ucmd pf, pidByte])

end Sys2Proof.Machine
end

