-- ==== Sys2Proof/Machine/DeframerCommands.lean ====
section
/-! DEFINITION. The commands of the AX.25 deframer (43_ax25_deframer.md R263, R267). -/

namespace Sys2Proof.Machine

/-- R263, R262: RX[1..RX_LEN-1), unstuffed. -/
def unstuffedRx (s : State) : Option (List Byte) := unstuffBody (bufSlice .rx 1 (s.rxLen.toNat - 1) s)

/-- R263: AX25_UNSTUFF. -/
def execAx25Unstuff (s : State) : Host.Outcome State Fault Refusal :=
  if s.rxLen.toNat < 2 ∨ s.rxLen.toNat > frameCap then raiseError .len s
  else if bufByte .rx 0 s ≠ flagByte ∨ bufByte .rx (s.rxLen.toNat - 1) s ≠ flagByte then raiseError .flag s
  else
    match unstuffedRx s with
    | none => raiseError .corrupt s
    | some body =>
      if body.length + 2 > ufILen then raiseError .overflow s
      else
        completeOk
          { bufStore .uf (flagByte :: (body ++ [flagByte])) s with ufLen := BitVec.ofNat 9 (body.length + 2) }

/-- R266: what both frame types write last: RXDEST <- UF[1..8), RXSRC <- UF[8..15). -/
def storeRxAddrs (uf : State) (s : State) : State :=
  { s with rxDest := group7Of (bufSlice .uf 1 8 uf), rxSrc := group7Of (bufSlice .uf 8 15 uf) }

/-- R266, R267: the fields of an I-frame, once its FCS holds. -/
def recvIFrame (s : State) : Host.Outcome State Fault Refusal :=
  if (bufByte .uf 15 s).getLsbD 0 then raiseError .frameType s
  else if bufByte .uf 17 s ≠ pidByte then raiseError .pid s
  else
    completeOk
      (storeRxAddrs s
        { bufStore .cw (bufSlice .uf 18 273 s) s with
          rxi := rxInfo false 0#2 ((bufByte .uf 16 s).getLsbD 0) (bufByte .uf 15 s) (bufByte .uf 16 s) })

/-- R266, R267: the fields of a U-frame, once its FCS holds. -/
def recvUFrame (s : State) : Host.Outcome State Fault Refusal :=
  if (bufByte .uf 15 s).extractLsb' 0 2 ≠ 0b11#2 then raiseError .frameType s
  else if bufByte .uf 16 s ≠ pidByte then raiseError .pid s
  else if (bufByte .uf 15 s).extractLsb' 2 2 = 3#2 then raiseError .ucmd s
  else
    completeOk
      (storeRxAddrs s
        { s with
          rxi := rxInfo true ((bufByte .uf 15 s).extractLsb' 2 2) ((bufByte .uf 15 s).getLsbD 4) (bufByte .uf 15 s) 0#8 })

/-- R265, R267: AX25_RECV: length, flags, FCS, then the fields by the length. -/
def execAx25Recv (s : State) : Host.Outcome State Fault Refusal :=
  let l := s.ufLen.toNat
  if l ≠ ufULen ∧ l ≠ ufILen then raiseError .len s
  else if bufByte .uf 0 s ≠ flagByte ∨ bufByte .uf (l - 1) s ≠ flagByte then raiseError .flag s
  else if [bufByte .uf (l - 3) s, bufByte .uf (l - 2) s] ≠ fcsBytes (bufSlice .uf 1 (l - 3) s) then raiseError .fcs s
  else if l = ufILen then recvIFrame s
  else recvUFrame s

end Sys2Proof.Machine
end

