-- ==== Sys2Proof/Machine/FramerCommands.lean ====
section
/-! DEFINITION. The commands of the AX.25 framer (42_ax25_framer.md R240 to R243). -/

namespace Sys2Proof.Machine

/-- R240: AX25_ADDR; E = SEL. -/
def execAx25Addr (sel : AddrSel) (s : State) : Host.Outcome State Fault Refusal :=
  if csLen s > callsignMax then raiseError .arg s
  else
    match sel with
    | .dest => completeOk { s with dest := group7Of (addrField (callSign s) (csLen s) (ssidField s) (cBit s) false) }
    | .src => completeOk { s with src := group7Of (addrField (callSign s) (csLen s) (ssidField s) (cBit s) true) }

/-- R241: AX25_FRAME_I. -/
def execAx25FrameI (s : State) : Host.Outcome State Fault Refusal :=
  completeOk
    { bufStore .uf (iFrame (destAddr s) (srcAddr s) (nsField s) (pBit s) (nrField s) (bufAll .cw s)) s with
      ufLen := BitVec.ofNat 9 ufILen }

/-- R242: AX25_FRAME_U. -/
def execAx25FrameU (ucmd : BitVec 2) (pf : Bool) (s : State) : Host.Outcome State Fault Refusal :=
  if ucmd = 3#2 then raiseError .arg s
  else
    completeOk { bufStore .uf (uFrame (destAddr s) (srcAddr s) ucmd pf) s with ufLen := BitVec.ofNat 9 ufULen }

/-- R243, R233 to R235: the stuffed frame of UF[1..UF_LEN-1). -/
def stuffedUf (s : State) : List Byte := stuffFrame (bufSlice .uf 1 (s.ufLen.toNat - 1) s)

/-- R243: AX25_STUFF. -/
def execAx25Stuff (s : State) : Host.Outcome State Fault Refusal :=
  if s.ufLen.toNat < 2 ∨ s.ufLen.toNat > ufILen then raiseError .len s
  else if (stuffedUf s).length > min s.txLimit.toNat frameCap then raiseError .overflow s
  else completeOk { bufStore .tx (stuffedUf s) s with txLen := BitVec.ofNat 9 (stuffedUf s).length }

end Sys2Proof.Machine
end

