-- ==== Sys2Proof/Machine/Gf256.lean ====
section
/-! DEFINITION. The field GF(256) of the Reed-Solomon code (40_rs_codec.md R140 to R142) and polynomials over it, as coefficient
lists by degree (R150, R152). Addition and subtraction are exclusive or (R140). -/

namespace Sys2Proof.Machine

/-- R141: `a << 1` over 9 bits, reduced by 0x187 when bit 8 is set: multiplication by alpha (R142). -/
def gfXtime (a : Byte) : Byte :=
  let a9 := a.setWidth 9 <<< 1
  (if a9.getLsbD 8 then a9 ^^^ rsPoly else a9).setWidth 8

/-- R141: the loop of GF.mul over the bits of b that are left, lowest first. -/
def gfMulGo : Nat → Byte → Byte → Byte → Byte
  | 0, _, _, r => r
  | n + 1, a, b, r =>
    strict (if b.getLsbD 0 then r ^^^ a else r) fun r' => strict (gfXtime a) fun a' => gfMulGo n a' (b >>> 1) r'

/-- R141: GF.mul. -/
def gfMul (a b : Byte) : Byte := gfMulGo 8 a b 0#8

/-- x times alpha, k times. -/
def gfPowGo : Nat → Byte → Byte
  | 0, x => x
  | k + 1, x => strict (gfXtime x) (gfPowGo k)

/-- R142: alpha^k for a natural k, which is alpha^(k mod 255). -/
def alphaPow (k : Nat) : Byte := gfPowGo (k % 255) 1#8

/-- R142: alpha^(-p) for p in 0..254. -/
def alphaPowNeg (p : Nat) : Byte := alphaPow (255 - p)

/-- Looks for `a` among x, x*alpha, ..., counting from k. -/
def gfLogGo : Nat → Byte → Nat → Byte → Option Nat
  | 0, _, _, _ => none
  | n + 1, a, k, x => if x = a then some k else strict (gfXtime x) (gfLogGo n a (k + 1))

/-- R142: GF.log(a), the k in 0..254 with alpha^k = a; none for 0. -/
def gfLog (a : Byte) : Option Nat := gfLogGo 255 a 0 1#8

/-- R142: GF.inv(a) = alpha^(255 - GF.log(a)). GF.inv(0) is not defined and no rule calls it: a free value
(notes/assumptions/8.md). -/
def gfInv (a : Byte) : Byte :=
  match gfLog a with
  | some k => alphaPow (255 - k)
  | none => Config.gfInvOfZero

/-- The sum of two polynomials. -/
def polyAdd : List Byte → List Byte → List Byte
  | [], q => q
  | p, [] => p
  | a :: p, b :: q => (a ^^^ b) :: polyAdd p q

/-- A constant times a polynomial. -/
def polyScale (c : Byte) (p : List Byte) : List Byte := p.map (gfMul c)

/-- x^m times a polynomial. -/
def polyShift (m : Nat) (p : List Byte) : List Byte := List.replicate m 0#8 ++ p

/-- The product of two polynomials. -/
def polyMul : List Byte → List Byte → List Byte
  | [], _ => []
  | a :: p, q => polyAdd (polyScale a q) (0#8 :: polyMul p q)

/-- Horner's rule over coefficients from the highest degree down (R149). -/
def hornerHigh (x : Byte) : List Byte → Byte → Byte
  | [], acc => acc
  | c :: cs, acc => strict (gfMul acc x ^^^ c) (hornerHigh x cs)

/-- The value of a polynomial at x. -/
def polyEval (p : List Byte) (x : Byte) : Byte := hornerHigh x p.reverse 0#8

/-- R152: the formal derivative in characteristic 2, the sum over odd i of p_i x^(i-1). -/
def polyDeriv (p : List Byte) : List Byte := p.tail.mapIdx fun j c => if j % 2 = 0 then c else 0#8

/-- The number of places where two sequences differ (R147: dist). -/
def hamming (a b : List Byte) : Nat := (List.zipWith (fun x y => if x = y then 0 else 1) a b).sum

end Sys2Proof.Machine
end

