-- ==== Sys2Proof/Machine/RsCodec.lean ====
section
/-! DEFINITION. The Reed-Solomon code RS(255,223): systematic encoding (40_rs_codec.md R146) and bounded-distance decoding (R148)
by the reference algorithm (R149 to R153). -/

namespace Sys2Proof.Machine

/-- R146: one turn of the shift register; `rem` is rem[0..31], `fb` the feedback byte. -/
def rsShift (rem : List Byte) (fb : Byte) : List Byte :=
  List.zipWith (· ^^^ ·) (0#8 :: rem) (polyScale fb rsGenLow)

/-- R146: the shift register over the message bytes. -/
def rsEncGo : List Byte → List Byte → List Byte
  | [], rem => rem
  | m :: ms, rem => strict (m ^^^ rem.getD 31 0#8) fun fb => rsEncGo ms (rsShift rem fb)

/-- R146: the parity bytes, high order first. -/
def rsParity (msg : List Byte) : List Byte := (rsEncGo msg (List.replicate rsNpar 0#8)).reverse

/-- R146: RSenc(MSG). -/
def rsEnc (msg : List Byte) : List Byte := msg ++ rsParity msg

/-- R149, R144: S_1..S_32, S_j = r(alpha^(GAP*(FCR + j - 1))) by Horner's rule; S_j stands at index j - 1. -/
def syndromes (r : List Byte) : List Byte :=
  (List.range rsNpar).map fun j => hornerHigh (alphaPow (rsGap * (rsFcr + j))) r 0#8

/-- Every byte is 0. -/
def allZero (l : List Byte) : Bool := l.all (· == 0#8)

/-- R150: the variables of Berlekamp-Massey. -/
structure BmVars where
  lam : List Byte
  prev : List Byte
  len : Nat
  shift : Nat
  scale : Byte
deriving DecidableEq, Repr

/-- R150: the discrepancy d = S_(n+1) XOR sum_{i=1}^{L} Lam_i S_(n+1-i). -/
def bmDiscrepancy (syn : List Byte) (n : Nat) (v : BmVars) : Byte :=
  (List.range v.len).foldl (fun acc j => acc ^^^ gfMul (v.lam.getD (j + 1) 0#8) (syn.getD (n - (j + 1)) 0#8)) (syn.getD n 0#8)

/-- R150: one turn of the loop, for index n. -/
def bmStep (syn : List Byte) (n : Nat) (v : BmVars) : BmVars :=
  strict (bmDiscrepancy syn n v) fun d =>
    if d = 0#8 then { v with shift := v.shift + 1 }
    else
      let lam' := polyAdd v.lam (polyScale (gfMul d (gfInv v.scale)) (polyShift v.shift v.prev))
      if 2 * v.len ≤ n then { lam := lam', prev := v.lam, len := n + 1 - v.len, shift := 1, scale := d }
      else { v with lam := lam', shift := v.shift + 1 }

/-- R150: the loop, from index n on, k turns. -/
def bmGo (syn : List Byte) : Nat → Nat → BmVars → BmVars
  | 0, _, v => v
  | k + 1, n, v => bmGo syn k (n + 1) (bmStep syn n v)

/-- R150: Lam and L from the syndromes. -/
def berlekampMassey (syn : List Byte) : BmVars :=
  bmGo syn rsNpar 0 { lam := [1#8], prev := [1#8], len := 0, shift := 1, scale := 1#8 }

/-- R151: the p in 0..254 with Lam(alpha^(-p)) = 0. -/
def errorPositions (lam : List Byte) : List Nat :=
  (List.range rsN).filter fun p => polyEval lam (alphaPowNeg p) == 0#8

/-- R152: Om(x) = (S(x) * Lam(x)) mod x^32. -/
def errorEvaluator (syn lam : List Byte) : List Byte := (polyMul syn lam).take rsNpar

/-- R152: Forney's error value at p, or none where the denominator is 0. -/
def forneyValue (om lam : List Byte) (p : Nat) : Option Byte :=
  let x := alphaPowNeg p
  let den := polyEval (polyDeriv lam) x
  if den = 0#8 then none
  else some (gfMul (alphaPow (p * (1 - rsFcr))) (gfMul (polyEval om x) (gfInv den)))

/-- R152: corrects the byte at index 254 - p for every p of the list. -/
def correctAt (om lam : List Byte) : List Nat → List Byte → Option (List Byte)
  | [], c => some c
  | p :: ps, c =>
    match forneyValue om lam p with
    | none => none
    | some e => correctAt om lam ps (c.set (254 - p) (c.getD (254 - p) 0#8 ^^^ e))

/-- R148, R149 to R153: RSdec(r), `some (msg, n)` for Ok(msg, n) and `none` for Fail. -/
def rsDec (r : List Byte) : Option (List Byte × Nat) :=
  let syn := syndromes r
  if allZero syn then some (r.take rsK, 0)
  else
    let v := berlekampMassey syn
    if v.len > rsT then none
    else
      let ps := errorPositions v.lam
      if ps.length ≠ v.len then none
      else
        match correctAt (errorEvaluator syn v.lam) v.lam ps r with
        | none => none
        | some c => if allZero (syndromes c) then some (c.take rsK, hamming r c) else none

end Sys2Proof.Machine
end

