-- ==== Sys2Proof/Machine/RsCommands.lean ====
section
/-! DEFINITION. The commands of the Reed-Solomon engine (40_rs_codec.md R154 to R157). -/

namespace Sys2Proof.Machine

/-- R154: RS_INIT. -/
def execRsInit (s : State) : Host.Outcome State Fault Refusal := completeOk { s with rsReady := true }

/-- R155: RS_RELEASE. -/
def execRsRelease (s : State) : Host.Outcome State Fault Refusal := completeOk { s with rsReady := false }

/-- R156: RS_ENCODE. -/
def execRsEncode (s : State) : Host.Outcome State Fault Refusal :=
  if s.rsReady = false then raiseError .notInit s
  else completeOk (bufStore .cw (rsEnc (bufAll .msg s)) s)

/-- R157: RS_DECODE. -/
def execRsDecode (s : State) : Host.Outcome State Fault Refusal :=
  if s.rsReady = false then raiseError .notInit s
  else
    match rsDec (bufAll .cw s) with
    | none => raiseError .uncorrectable s
    | some (msg, n) => completeOk { bufStore .msg msg s with nCorr := BitVec.ofNat 5 n }

end Sys2Proof.Machine
end

