-- ==== Sys2Proof/Machine/Dispatch.lean ====
section
/-! DEFINITION. One arm per command (30_encoding.md R114), each the meaning its rule gives it. -/

namespace Sys2Proof.Machine

def exec (i : Instr) (s : State) : Host.Outcome State Fault Refusal :=
  match i with
  | .rsInit => Sys2Proof.Machine.execRsInit s
  | .rsRelease => Sys2Proof.Machine.execRsRelease s
  | .rsEncode => Sys2Proof.Machine.execRsEncode s
  | .rsDecode => Sys2Proof.Machine.execRsDecode s
  | .aesSetkey => Sys2Proof.Machine.execAesSetkey s
  | .aesCtr => Sys2Proof.Machine.execAesCtr s
  | .aesGcmEnc => Sys2Proof.Machine.execAesGcmEnc s
  | .aesGcmDec => Sys2Proof.Machine.execAesGcmDec s
  | .ax25Addr sel => Sys2Proof.Machine.execAx25Addr sel s
  | .ax25FrameI => Sys2Proof.Machine.execAx25FrameI s
  | .ax25FrameU ucmd pf => Sys2Proof.Machine.execAx25FrameU ucmd pf s
  | .ax25Stuff => Sys2Proof.Machine.execAx25Stuff s
  | .ax25Unstuff => Sys2Proof.Machine.execAx25Unstuff s
  | .ax25Recv => Sys2Proof.Machine.execAx25Recv s

end Sys2Proof.Machine
end

