-- ==== Sys2Proof/Machine/Step.lean ====
section
/-! DEFINITION. One step: the completion of the command in flight where it is due, else one turn of the host (20_memory.md,
introduction: "one step per host bus access, and one step per command completion"). -/

namespace Sys2Proof.Machine

/-- The step. The completion runs the command on the state as it then stands, which agrees with the state at its acceptance in
everything a command reads (R87, R91): DEDUCED (notes/assumptions/4.md). -/
def step (s : State) : Host.Outcome State Fault Refusal :=
  if completionDue s then
    match decode (fetchWord s) with
    | .command i => exec i s
    | .illegal _ => completeIllegal s
  else .next (hostTurn (tick s))

/-- The state with the command word whose bits are `w` accepted and its completion due in the very next step: what the
acceptance of a CMD write leaves (R292), with LAT = 1 (R8). -/
def State.withFetchWord (s : State) (nbits w : Nat) : State :=
  { s with
    seq := .busy, cur := BitVec.ofNat 32 (w % 2 ^ nbits), done := false, errCode := .none, nCorr := 0#5, latLeft := 0 }

end Sys2Proof.Machine
end

