-- ==== Sys2Proof/Machine/HostProgram.lean ====
section
/-! DEFINITION. Host programs (30_encoding.md R117 to R119): the assembler's mnemonics, and the pseudo-statements as the bus accesses
they expand to. A host program is a list of `HostOp`, the block's input (R69). -/

namespace Sys2Proof.Machine

/-- R117: each mnemonic with the word it assembles to. -/
def mnemonicTable : List (String × Word) :=
  [("rs.init", 0x00000001#32), ("rs.release", 0x00000002#32), ("rs.enc", 0x00000003#32), ("rs.dec", 0x00000004#32),
   ("aes.setkey", 0x00000010#32), ("aes.ctr", 0x00000011#32), ("aes.gcm.enc", 0x00000012#32), ("aes.gcm.dec", 0x00000013#32)] ++
  [("ax25.addr dest", 0x00000020#32), ("ax25.addr src", 0x00000120#32), ("ax25.frame.i", 0x00000021#32),
   ("ax25.frame.u conn", 0x00000022#32), ("ax25.frame.u disc", 0x00000122#32), ("ax25.frame.u ack", 0x00000222#32),
   ("ax25.frame.u conn, pf", 0x00000422#32), ("ax25.frame.u disc, pf", 0x00000522#32), ("ax25.frame.u ack, pf", 0x00000622#32),
   ("ax25.stuff", 0x00000023#32), ("ax25.unstuff", 0x00000030#32), ("ax25.recv", 0x00000031#32)]

/-- R117: the word of a mnemonic; `.word V` is V itself and needs no table. -/
def assemble (m : String) : Option Word := mnemonicTable.lookup m

/-- R30: the offset of a register. -/
def regOffset (r : Reg) : Nat := ((regMap.find? fun p => p.2 == r).map Prod.fst).getD 0

/-- R10, R118: the block offset of byte i of a buffer. An index that leads beyond 0xFFF, which R80 and R88 leave open, wraps modulo 4096
back into the window: DESIGN CHOICE (notes/assumptions/17.md). -/
def bufOffset (b : Buffer) (i : Nat) : BitVec 12 := BitVec.ofNat 12 (bufBase b + i)

/-- R119: `setreg NAME, V`. -/
def progSetreg (r : Reg) (v : Word) : List HostOp := [.write .w4 (BitVec.ofNat 12 (regOffset r)) v]

/-- R119: `cmd M`, for the word of M. -/
def progCmd (w : Word) : List HostOp := [.write .w4 0x004#12 w]

/-- R119: `run M`: start, wait, then clear DONE. -/
def progRun (w : Word) : List HostOp := progCmd w ++ [.wait, .write .w4 0x008#12 0x2#32]

/-- R119: `load B, i, b0 b1 ... bk`. -/
def progLoad (b : Buffer) (i : Nat) : List Byte → List HostOp
  | [] => []
  | v :: rest => .write .w1 (bufOffset b i) (v.setWidth 32) :: progLoad b (i + 1) rest

/-- R119: `fill B, i, n, v`. -/
def progFill (b : Buffer) (i n : Nat) (v : Byte) : List HostOp := progLoad b i (List.replicate n v)

/-- R119: `copy B1, i, B2, j, n`. -/
def progCopy (b1 : Buffer) (i : Nat) (b2 : Buffer) (j n : Nat) : List HostOp :=
  (List.range n).flatMap fun k => [.read .w1 (bufOffset b1 (i + k)), .writeBack .w1 (bufOffset b2 (j + k)) 0#32]

/-- R119: the byte groups of `setbytes`. -/
inductive ByteGroup where
  | cs
  | dest
  | src
  | key
  | iv
  | tag
deriving DecidableEq, Repr

/-- R30, R58: the registers of a group, in the order of their offsets. -/
def groupRegs : ByteGroup → List Reg
  | .cs => [.csLo, .csHi]
  | .dest => [.dest0, .dest1]
  | .src => [.src0, .src1]
  | .key => [.key0, .key1, .key2, .key3]
  | .iv => [.iv0, .iv1, .iv2, .iv3]
  | .tag => [.tag0, .tag1, .tag2, .tag3]

/-- The writes of `setbytes` to the registers left, four bytes to each; a missing byte is 0. Bytes beyond the group's, which R119 leaves
open, are dropped: DESIGN CHOICE (notes/assumptions/17.md). -/
def progPack : List Reg → List Byte → List HostOp
  | [], _ => []
  | r :: rs, l => progSetreg r (leWord (l.take 4)) ++ progPack rs (l.drop 4)

/-- R119: `setbytes G, b0 ... bn-1`. -/
def progSetbytes (g : ByteGroup) (l : List Byte) : List HostOp := progPack (groupRegs g) l

end Sys2Proof.Machine
end

