-- ==== Sys2Proof/Safety.lean ====
section
/-! DEFINITION. What the spec promises of every state (the invariant `stateInv`), and the safe use of the block by a host
(70_reset_and_hazards.md R323, R324). -/

namespace Sys2Proof.Machine

/-- R56, R264, R266: RXI as a successful AX25_RECV (or reset) leaves it: bits 7:4 are 0; an I-frame has UCMD 0 and CTRL0 bit 0 = 0
and PF in CTRL1 bit 0; a U-frame has CTRL0 bits 1:0 = 11, UCMD in bits 3:2 and never 3, PF in bit 4, and CTRL1 0. -/
def rxiLegal (r : BitVec 24) : Bool :=
  r.extractLsb' 4 4 == 0#4 &&
    (if r.getLsbD 0 then
      r.extractLsb' 8 2 == 0b11#2 && r.extractLsb' 1 2 == r.extractLsb' 10 2 && r.extractLsb' 1 2 != 3#2 &&
        r.getLsbD 3 == r.getLsbD 12 && r.extractLsb' 16 8 == 0#8
    else r.extractLsb' 1 2 == 0#2 && !r.getLsbD 8 && r.getLsbD 3 == r.getLsbD 16)

/-- R37, R39, R40, R292: while a command is in flight DONE, ERRCODE and NCORR are what its acceptance wrote. -/
def busyClean (s : State) : Bool :=
  !busyFlag s || (!s.done && s.errCode == .none && s.nCorr == 0#5)

/-- The invariant of the block, which every step keeps: the memory has its canonical form; NCORR is at most 16 (R40); TX_LEN is
at most the capacity of TX (R49, R67, R238); no command in flight has written STATUS (R292); without KEY_VALID the engine's key
is the reset key (R42, R62); RXI is legal (R56). -/
def stateInv (s : State) : Bool :=
  memWf s.mem && decide (s.nCorr.toNat ≤ rsT) && decide (s.txLen.toNat ≤ frameCap) && busyClean s &&
    (s.keyValid || s.keyState == zero16) && rxiLegal s.rxi

/-- R82: the valid bytes of the six windows MSG, CW, ADATA, UF, TX, RX, by block offset. -/
abbrev bufferOffset (a : Nat) : Prop :=
  (0x100 ≤ a ∧ a ≤ 0x1DE) ∨ (0x200 ≤ a ∧ a ≤ 0x2FE) ∨ (0x300 ≤ a ∧ a ≤ 0x3CE) ∨ (0x400 ≤ a ∧ a ≤ 0x513) ∨
    (0x600 ≤ a ∧ a ≤ 0x74A) ∨ (0x800 ≤ a ∧ a ≤ 0x94A)

/-- R86 (a), R59, R82, R84: the access touches a reserved offset: a reserved register, the space above the windows, or a byte of a
window beyond the buffer's valid bytes. -/
abbrev reservedAccess (n : BusWidth) (off : Nat) : Prop :=
  off = 0x00C ∨ off = 0x01C ∨ off = 0x048 ∨ off = 0x04C ∨ (0x094 ≤ off ∧ off ≤ 0x0FF) ∨ 0xA00 ≤ off ∨
    (0x100 ≤ off ∧ off < 0xA00 ∧ ∃ k, k < widthBytes n ∧ ¬bufferOffset (off + k))

/-- R86 (b), R83, R84: the access has a width or an alignment its region does not accept. -/
abbrev badShape (n : BusWidth) (off : Nat) : Prop :=
  (off < 0x100 ∧ (n ≠ .w4 ∨ off % 4 ≠ 0)) ∨ (0x100 ≤ off ∧ off % widthBytes n ≠ 0)

/-- R86 (c), R87: the access reaches neither CTRL nor STATUS. -/
abbrev closedWhileBusy (n : BusWidth) (off : Nat) : Prop := ¬(n = .w4 ∧ (off = 0x000 ∨ off = 0x008))

/-- Every byte of memory but the n bytes from offset `lo` on reads in `t` as in `s`. -/
def keepsBytesOutside (lo n : Nat) (s t : State) : Prop :=
  ∀ a, ¬(lo ≤ a ∧ a < lo + n) → readByte t.mem a = readByte s.mem a

/-- None of the next n operations of the host is a reset. -/
def noResetWithin (n : Nat) (s : State) : Prop := ∀ op ∈ s.host.take n, op ≠ .reset

/-! ### The engines' rules, as relations the statements use -/

/-- R141: r k and x k are `r` and `a` before turn k of GF.mul(a, b). -/
def gfMulTurns (a b : Byte) (r x : Nat → Byte) : Prop :=
  r 0 = 0#8 ∧ x 0 = a ∧
    ∀ k, k < 8 →
      r (k + 1) = (if b.getLsbD k then r k ^^^ x k else r k) ∧
        x (k + 1) =
          (if (x k).getLsbD 7 then ((x k).setWidth 9 <<< 1) ^^^ 0x187#9 else (x k).setWidth 9 <<< 1).setWidth 8

/-- R143: c(alpha^j), the sum of CW[i] * alpha^(j * (254 - i)) over i = 0..254, for the codeword polynomial of c. -/
def codewordValue (c : List Byte) (j : Nat) : Byte :=
  (List.range 255).foldl (fun t i => t ^^^ gfMul (c.getD i 0#8) (alphaPow (j * (254 - i)))) 0#8

/-- R145: a codeword, 255 bytes whose polynomial vanishes at alpha^j for j = 1..32. -/
def isCodeword (c : List Byte) : Prop :=
  c.length = 255 ∧ ∀ j, 1 ≤ j → j ≤ 32 → hornerHigh (alphaPow j) c 0#8 = 0#8

/-- R180, R181: the product in GF(2^8) modulo 0x11B: the sum of z^k * a over the bits k of b that are 1. -/
def aesMul (a b : Byte) : Byte :=
  (List.range 8).foldl (fun r k => if b.getLsbD k then r ^^^ Nat.iterate aesXtime k a else r) 0#8

/-- R183: w i r is byte r of the word w[i] of the key expansion of k, i = 0..43. -/
def keyWords (k : List Byte) (w : Nat → Nat → Byte) : Prop :=
  (∀ i, i < 4 → ∀ r, r < 4 → w i r = k.getD (4 * i + r) 0#8) ∧
    ∀ i, i < 44 → 4 ≤ i → ∀ r, r < 4 →
      w i r = w (i - 4) r ^^^
        (if i % 4 = 0 then
          sbox (w (i - 1) ((r + 1) % 4)) ^^^ (if r = 0 then rcon.getD (i / 4 - 1) 0#8 else 0#8)
        else w (i - 1) r)

/-- R182: the entry of row r and column c of the state s after SubBytes and ShiftRows. -/
def shiftedEntry (s : Nat → Nat → Byte) (r c : Nat) : Byte := sbox (s r ((c + r) % 4))

/-- R182: the factor of a in MixColumns at distance d from the diagonal: mul2, mul3, 1, 1. -/
def mixFactor (d : Nat) (a : Byte) : Byte :=
  if d = 0 then aesXtime a else if d = 1 then aesXtime a ^^^ a else a

/-- R184, R182: s n r c is the state's entry after AddRoundKey(n), n = 0..10. -/
def cipherStates (x : List Byte) (w : Nat → Nat → Byte) (s : Nat → Nat → Nat → Byte) : Prop :=
  (∀ r, r < 4 → ∀ c, c < 4 → s 0 r c = x.getD (r + 4 * c) 0#8 ^^^ w c r) ∧
    (∀ n, n < 9 → ∀ r, r < 4 → ∀ c, c < 4 →
      s (n + 1) r c =
        mixFactor 0 (shiftedEntry (s n) r c) ^^^ mixFactor 1 (shiftedEntry (s n) ((r + 1) % 4) c) ^^^
          mixFactor 2 (shiftedEntry (s n) ((r + 2) % 4) c) ^^^ mixFactor 3 (shiftedEntry (s n) ((r + 3) % 4) c) ^^^
          w (4 * (n + 1) + c) r) ∧
    ∀ r, r < 4 → ∀ c, c < 4 → s 10 r c = shiftedEntry (s 9) r c ^^^ w (40 + c) r

/-- R186: z i and v i are Z and V before turn i of mul128(x, y). -/
def mulRounds (x y : BitVec 128) (z v : Nat → BitVec 128) : Prop :=
  z 0 = 0#128 ∧ v 0 = y ∧
    ∀ i, i < 128 →
      z (i + 1) = (if x.getLsbD (127 - i) then z i ^^^ v i else z i) ∧
        v (i + 1) = if (v i).getLsbD 0 then (v i >>> 1) ^^^ 0xE1000000000000000000000000000000#128 else v i >>> 1

/-- R187: h and j0 are H and J0 for the key k and the 16-byte IV iv. -/
def isGcmStart (k iv : List Byte) (h j0 : BitVec 128) : Prop :=
  h = intBe 128 (aesEnc k (List.replicate 16 0#8)) ∧ j0 = ghash h (iv ++ List.replicate 8 0#8 ++ beBytes 8 128#64)

/-- R188: the tag of the ciphertext c. -/
def gcmTagOf (k : List Byte) (h j0 : BitVec 128) (c : List Byte) : List Byte :=
  xorBytes (aesEnc k (beBytes 16 j0))
    (beBytes 16
      (ghash h
        (c ++ List.replicate ((16 - c.length % 16) % 16) 0#8 ++ beBytes 8 0#64 ++ beBytes 8 (BitVec.ofNat 64 (8 * c.length)))))

/-- R186, R188: byte i of the key stream whose first block is inc32(J0): only the low 32 bits of the counter count and wrap. -/
def gcmStreamByte (k : List Byte) (j0 : BitVec 128) (i : Nat) : Byte :=
  (aesEnc k (beBytes 16 (j0.extractLsb' 32 96 ++ (j0.extractLsb' 0 32 + BitVec.ofNat 32 (i / 16 + 1))))).getD (i % 16) 0#8

/-- R224: c k is `crc` before turn k of the eight turns that take in the byte b after the bytes d; FCS(d) is `crc` XOR 0xFFFF. -/
def fcsTurns (d : List Byte) (b : Byte) (c : Nat → BitVec 16) : Prop :=
  c 0 = (fcs d ^^^ 0xFFFF#16) ^^^ b.setWidth 16 ∧
    ∀ k, k < 8 → c (k + 1) = if (c k).getLsbD 0 then (c k >>> 1) ^^^ 0x8408#16 else c k >>> 1

/-- R233, R260: somewhere in the bits five 1s follow one another. -/
abbrev fiveOnes (b : List Bool) : Prop := ∃ i, i < b.length ∧ ∀ k, k < 5 → b[i + k]? = some true

/-- R323, R324, R38: the host has used the block safely so far (since ACCERR was last cleared): no access was refused. -/
def hostSafe (s : State) : Bool := !s.accErr

end Sys2Proof.Machine
end

