-- ==== Sys2Proof/Certificates/Slice0/Obligations.lean ====
section
/-! DEFINITION. The statements for the provers, from the numbered rules of spec/. A docstring names the rule. -/

open Sys2Proof Sys2Proof.Machine

/-! ## Encoding -/

/-- R117, R115: the words the assembler gives for the mnemonics, and the commands they decode to. -/
def Obligations.MnemonicWordsDecode : Prop :=
  ∀ p ∈ ([("rs.init", 0x00000001#32, .rsInit), ("rs.release", 0x00000002#32, .rsRelease), ("rs.enc", 0x00000003#32, .rsEncode),
      ("rs.dec", 0x00000004#32, .rsDecode), ("aes.setkey", 0x00000010#32, .aesSetkey), ("aes.ctr", 0x00000011#32, .aesCtr),
      ("aes.gcm.enc", 0x00000012#32, .aesGcmEnc), ("aes.gcm.dec", 0x00000013#32, .aesGcmDec),
      ("ax25.addr dest", 0x00000020#32, .ax25Addr .dest), ("ax25.addr src", 0x00000120#32, .ax25Addr .src),
      ("ax25.frame.i", 0x00000021#32, .ax25FrameI), ("ax25.frame.u conn", 0x00000022#32, .ax25FrameU 0 false),
      ("ax25.frame.u disc", 0x00000122#32, .ax25FrameU 1 false), ("ax25.frame.u ack", 0x00000222#32, .ax25FrameU 2 false),
      ("ax25.frame.u conn, pf", 0x00000422#32, .ax25FrameU 0 true), ("ax25.frame.u disc, pf", 0x00000522#32, .ax25FrameU 1 true),
      ("ax25.frame.u ack, pf", 0x00000622#32, .ax25FrameU 2 true), ("ax25.stuff", 0x00000023#32, .ax25Stuff),
      ("ax25.unstuff", 0x00000030#32, .ax25Unstuff), ("ax25.recv", 0x00000031#32, .ax25Recv)] : List (String × Word × Instr)),
    assemble p.1 = some p.2.1 ∧ decode p.2.1 = .command p.2.2

/-- R110 to R115: decoding the encoding of a well-formed command gives it back, with every operand at every value; and a word that
decodes to a command is that command's encoding, so no bit of a command word is dropped. -/
def Obligations.DecodeAndEncodeAgree : Prop :=
  (∀ i : Instr, i.wellFormed = true → decode (encode i) = .command i) ∧
    ∀ (w : Word) (i : Instr), decode w = .command i → i.wellFormed = true ∧ encode i = w

/-- R115: a word selects a row of the opcode table by mask and match exactly when it decodes to a command of that row, and at most
one row matches any word. -/
def Obligations.MaskAndMatchSelectTheCommand : Prop :=
  (∀ (w : Word), ∀ r ∈ opcodeTable, r.selects w = true ↔ ∃ i, decode w = .command i ∧ mnemonicOf i = r.mnemonic) ∧
    ∀ (w : Word), ∀ r ∈ opcodeTable, ∀ r' ∈ opcodeTable, r.selects w = true → r'.selects w = true → r = r'

/-- R111 to R113, R116: a word is illegal exactly when its RSVD field is not 0, its OPCODE is not one of the 14, or an ARG bit that
must be 0 is 1. -/
def Obligations.IllegalWordsAreTheIllFormedOnes : Prop :=
  ∀ w : Word, (∃ why, decode w = .illegal why) ↔
    w.extractLsb' 12 20 ≠ 0#20 ∨
      w.extractLsb' 0 8 ∉ [0x01#8, 0x02#8, 0x03#8, 0x04#8, 0x10#8, 0x11#8, 0x12#8, 0x13#8, 0x20#8, 0x21#8, 0x22#8, 0x23#8,
        0x30#8, 0x31#8] ∨
      (w.extractLsb' 0 8 = 0x20#8 ∧ w.extractLsb' 9 3 ≠ 0#3) ∨ (w.extractLsb' 0 8 = 0x22#8 ∧ w.getLsbD 11 = true) ∨
      (w.extractLsb' 0 8 ≠ 0x20#8 ∧ w.extractLsb' 0 8 ≠ 0x22#8 ∧ w.extractLsb' 8 4 ≠ 0#4)

/-! ## The step -/

/-- R291, R292: when the completion of the command in flight is due, the step is the decoded command's meaning on that state, and
nothing is added around it; in every other state the step is one turn of the host, which a command in flight counts. (The count, one
turn or one completion to a step, and the completion's computing from the state as it then stands, which agrees with that of the
acceptance, are the model's: notes/assumptions/2.md, 5.md, 4.md.) R80, R92, R118, R119: a turn performs the host's next operation: a
write is MemWrite, a read is MemRead with its value handed to the host, a write-back writes the value last read XORed with
its mask, `wait` reads STATUS until BUSY is 0. (The host's operations as a list, and the log of what was read, are the model's:
notes/assumptions/3.md, 6.md, 14.md.) -/
def Obligations.StepRunsTheDecodedCommand : Prop :=
  (∀ (s : State) (i : Instr), s.seq = .busy → s.latLeft = 0 → decode s.cur = .command i → step s = exec i s) ∧
    (∀ s : State, s.seq = .idle → step s = .next (hostTurn s)) ∧
    (∀ s : State, s.seq = .busy → s.latLeft ≠ 0 → step s = .next (hostTurn { s with latLeft := s.latLeft - 1 })) ∧
    (∀ s : State, s.host = [] → hostTurn s = s) ∧
    ∀ (s : State) (rest : List HostOp) (n : BusWidth) (off : BitVec 12) (v : Word),
      (s.host = .write n off v :: rest → hostTurn s = memWrite n off v { s with host := rest }) ∧
      (s.host = .read n off :: rest →
        hostTurn s = { (memRead n off s).2 with host := rest, readLog := (memRead n off s).1 :: s.readLog }) ∧
      (s.host = .writeBack n off v :: rest →
        hostTurn s = memWrite n off (s.readLog.headD 0#32 ^^^ v) { s with host := rest }) ∧
      (s.host = .wait :: rest →
        hostTurn s = { s with host := if s.seq = .busy then s.host else rest, readLog := statusWord s :: s.readLog }) ∧
      (s.host = .idle :: rest → hostTurn s = { s with host := rest }) ∧
      ∀ addr : Nat,
        (s.host = .writeAt n addr v :: rest → hostTurn s = performOp (.writeAt n addr v) { s with host := rest }) ∧
        (s.host = .readAt n addr :: rest → hostTurn s = performOp (.readAt n addr) { s with host := rest })

/-- R116, R294: a word that is no command's encoding completes with ERR_ILLEGAL = 0x01 and changes no buffer or output register. (That
the completion is the step of a busy state with `latLeft` 0 is the model's choice: notes/assumptions/2.md, 5.md.) -/
def Obligations.IllegalWordCompletesWithErrIllegal : Prop :=
  errNumber .illegal = 0x01#8 ∧
    ∀ s : State, s.seq = .busy → s.latLeft = 0 → (∀ i, encode i ≠ s.cur) →
      step s = .next { s with seq := .idle, errCode := .illegal, done := true }

/-- R310: nothing halts the block or makes it stuck: every state has a next one. -/
def Obligations.EveryStateSteps : Prop := ∀ s : State, ∃ t, step s = .next t

/-- R291: every accepted command completes, after LAT >= 1 steps: with n turns of the host left and no reset among them, after n + 1
steps the sequencer is idle and DONE is set. (Counting steps by host turns is the model's choice: notes/assumptions/2.md, 5.md.) -/
def Obligations.AcceptedCommandCompletes : Prop :=
  ∀ (s : State) (n : Nat), s.seq = .busy → s.latLeft = n → noResetWithin n s →
    ∃ t : State, Sys2Proof.core.run (n + 1) s = .next t ∧ t.seq = .idle ∧ t.done = true

/-- R91: a command reads its inputs from the state at its acceptance and commits all its outputs at once: whatever the host does
while it is in flight (short of a reset), the state after its completion is the command's result on the state it was accepted
in, but for IRQ_EN, ACCERR and the host's own side. (That the model computes it at the completion, and that the steps are counted by
host turns, is its own choice: notes/assumptions/4.md, 2.md, 5.md.) -/
def Obligations.CommandCommitsItsAcceptanceState : Prop :=
  ∀ (s : State) (n : Nat) (i : Instr), s.seq = .busy → s.latLeft = n → decode s.cur = .command i → noResetWithin n s →
    ∃ t u : State, Sys2Proof.core.run (n + 1) s = .next t ∧ exec i s = .next u ∧
      t = { u with irqEn := t.irqEn, accErr := t.accErr, latLeft := t.latLeft, host := t.host, readLog := t.readLog }

/-! ## The host's accesses -/

/-- R86: an access is refused exactly when it falls in a reserved offset, breaks the width or alignment rule, or is made while BUSY
and not allowed; a refused access has no effect but ACCERR, a refused read returns 0; no other access sets ACCERR; writes to read-only
registers and fields, and reads of write-only registers, are not refused: they are ignored, or read 0. -/
def Obligations.RefusedAccesses : Prop :=
  ∀ (n : BusWidth) (off : BitVec 12) (v : Word) (s : State),
    (refusedAccess n off.toNat s = true ↔
      reservedAccess n off.toNat ∨ badShape n off.toNat ∨ (s.seq = .busy ∧ closedWhileBusy n off.toNat)) ∧
    (refusedAccess n off.toNat s = true →
      memRead n off s = (0#32, { s with accErr := true }) ∧ memWrite n off v s = { s with accErr := true }) ∧
    (refusedAccess n off.toNat s = false →
      (memRead n off s).2.accErr = s.accErr ∧ ((memWrite n off v s).accErr = true → s.accErr = true)) ∧
    (s.seq = .idle →
      (∀ ro ∈ [0x038#12, 0x080#12, 0x084#12, 0x088#12, 0x08C#12, 0x090#12],
        refusedAccess .w4 ro.toNat s = false ∧ memWrite .w4 ro v s = s) ∧
      (∀ wo ∈ [0x004#12, 0x050#12, 0x054#12, 0x058#12, 0x05C#12],
        refusedAccess .w4 wo.toNat s = false ∧ memRead .w4 wo s = (0#32, s)) ∧
      memWrite .w4 0x008#12 v s =
        { s with done := (memWrite .w4 0x008#12 v s).done, accErr := (memWrite .w4 0x008#12 v s).accErr })

/-- R87: while BUSY the host may read and write CTRL and STATUS and nothing else: every other read returns 0, every other write is
dropped; a CTRL write stores IRQ_EN (R33) and a STATUS write clears W1C bits, each as while idle; no host access changes anything a
command reads or writes, and a write to CMD leaves the command in flight alone. -/
def Obligations.BusyBlockIsClosed : Prop :=
  ∀ (n : BusWidth) (off : BitVec 12) (v : Word) (s : State), s.seq = .busy →
    (refusedAccess n off.toNat s = true ↔ closedWhileBusy n off.toNat) ∧
    (closedWhileBusy n off.toNat →
      memRead n off s = (0#32, { s with accErr := true }) ∧ memWrite n off v s = { s with accErr := true }) ∧
    memWrite n off v s =
      { s with
        irqEn := (memWrite n off v s).irqEn, done := (memWrite n off v s).done, accErr := (memWrite n off v s).accErr } ∧
    memWrite .w4 0x004#12 v s = { s with accErr := true } ∧
    memRead .w4 0x000#12 s = (if s.irqEn = true then 1#32 else 0#32, s) ∧
    memWrite .w4 0x000#12 v s = { s with irqEn := v.getLsbD 0 } ∧
    memRead .w4 0x008#12 s = (statusWord s, s) ∧
    memWrite .w4 0x008#12 v s =
      { s with
        done := if v.getLsbD 1 = true then false else s.done, accErr := if v.getLsbD 2 = true then false else s.accErr }

/-- R89: a read changes no state, except that a refused read sets ACCERR; repeated reads return the same value. -/
def Obligations.ReadsHaveNoSideEffects : Prop :=
  ∀ (n : BusWidth) (off : BitVec 12) (s : State),
    (memRead n off s).2 = (if refusedAccess n off.toNat s = true then { s with accErr := true } else s) ∧
      (refusedAccess n off.toNat s = false → (memRead n off (memRead n off s).2) = memRead n off s) ∧
      (memRead n off (memRead n off s).2).1 = (memRead n off s).1

/-- R82, R88, R10: where the buffers lie: byte i of MSG, CW, ADATA, UF, TX, RX is at window offset 0x100, 0x200, 0x300, 0x400, 0x600,
0x800 + i, for the 223, 255, 207, 276, 331, 331 valid bytes, which are the offsets of R82's table; `B[i..j)` and the whole of a buffer are
those bytes in order. R84, R88: while idle every access to valid bytes alone, aligned to its size, is accepted. R85, R88: little-endian
buffer accesses: an n-byte read returns B[i] | B[i+1] << 8 | ..., zero-extended; an n-byte write puts bits 8k+7:8k into byte k, keeps every
other byte and every register. -/
def Obligations.BufferAccessIsLittleEndian : Prop :=
  (∀ a : Nat, validOffset a = true ↔ bufferOffset a) ∧
  (∀ s : State,
    ∀ p ∈ ([(.msg, 0x100, 223), (.cw, 0x200, 255), (.adata, 0x300, 207), (.uf, 0x400, 276), (.tx, 0x600, 331), (.rx, 0x800, 331)] :
        List (Buffer × Nat × Nat)),
      (∀ i, bufByte p.1 i s = readByte s.mem (p.2.1 + i)) ∧
      (∀ i j, (bufSlice p.1 i j s).length = j - i ∧
        ∀ k, k < j - i → (bufSlice p.1 i j s).getD k 0#8 = readByte s.mem (p.2.1 + i + k)) ∧
      bufAll p.1 s = bufSlice p.1 0 p.2.2 s) ∧
  (∀ (n : BusWidth) (off : BitVec 12) (s : State), s.seq = .idle → off.toNat % widthBytes n = 0 →
    (∀ k, k < widthBytes n → bufferOffset (off.toNat + k)) → refusedAccess n off.toNat s = false) ∧
  ∀ (n : BusWidth) (off : BitVec 12) (v : Word) (s : State), 0x100 ≤ off.toNat → refusedAccess n off.toNat s = false →
    (∀ k, k < 4 → (memRead n off s).1.extractLsb' (8 * k) 8 =
      if k < widthBytes n then readByte s.mem (off.toNat + k) else 0#8) ∧
    (∀ k, k < widthBytes n → readByte (memWrite n off v s).mem (off.toNat + k) = v.extractLsb' (8 * k) 8) ∧
    keepsBytesOutside off.toNat (widthBytes n) s (memWrite n off v s) ∧
    memWrite n off v s = { s with mem := (memWrite n off v s).mem }

/-- R33, R43 to R48, R50 to R52, R54, R55: each read/write register, by its offset and the mask of its writable bits: while idle a
write is accepted, stores the writable bits and nothing else (reserved bits read 0), and leaves every other register, KEYIN and
KEYSTATE among them, and every buffer byte as it was. R33: CTRL is written and read in every state, also while BUSY. R49, R56, R57,
R34, R53: while idle a write to a read-only register is ignored and a read of a write-only one returns 0, neither setting ACCERR; a
write to KEYn stores the word in KEYIN and changes nothing else. R30: what each register reads, by its offset. R58: how the byte groups
are packed into registers, byte 0 lowest. -/
def Obligations.RegistersStoreTheirWritableBits : Prop :=
  (∀ (s t : State) (v : Word), s.seq = .idle →
    ∀ p ∈ ([(0x000#12, 0x00000001#32), (0x010#12, 0xFFFFFFFF#32), (0x014#12, 0xFFFFFFFF#32), (0x018#12, 0x000001FF#32),
        (0x020#12, 0xFFFFFFFF#32), (0x024#12, 0x00FFFFFF#32), (0x028#12, 0xFFFFFFFF#32), (0x02C#12, 0x00FFFFFF#32),
        (0x030#12, 0x00007FFF#32), (0x034#12, 0x000001FF#32), (0x03C#12, 0x000001FF#32), (0x040#12, 0x000001FF#32),
        (0x044#12, 0x000000FF#32), (0x060#12, 0xFFFFFFFF#32), (0x064#12, 0xFFFFFFFF#32), (0x068#12, 0xFFFFFFFF#32),
        (0x06C#12, 0xFFFFFFFF#32), (0x070#12, 0xFFFFFFFF#32), (0x074#12, 0xFFFFFFFF#32), (0x078#12, 0xFFFFFFFF#32),
        (0x07C#12, 0xFFFFFFFF#32)] : List (BitVec 12 × Word)),
      t = memWrite .w4 p.1 v s →
        (memRead .w4 p.1 t).1 = v &&& p.2 ∧
        (∀ off : BitVec 12, off ≠ p.1 → off.toNat < 0x100 → (memRead .w4 off t).1 = (memRead .w4 off s).1) ∧
        t = { s with
              irqEn := t.irqEn, cs := t.cs, addrCfg := t.addrCfg, dest := t.dest, src := t.src, ictrl := t.ictrl,
              ufLen := t.ufLen, txLimit := t.txLimit, rxLen := t.rxLen, aesLen := t.aesLen, iv := t.iv, tag := t.tag }) ∧
  (∀ (s : State) (v : Word),
    memWrite .w4 0x000#12 v s = { s with irqEn := v.getLsbD 0 } ∧
      memRead .w4 0x000#12 s = (if s.irqEn = true then 1#32 else 0#32, s)) ∧
  (∀ s : State, s.seq = .idle →
    ∀ p ∈ ([(0x008#12, statusWord s), (0x010#12, s.cs.lo), (0x014#12, s.cs.hi), (0x018#12, s.addrCfg.setWidth 32),
        (0x020#12, s.dest.r0), (0x024#12, s.dest.r1.setWidth 32), (0x028#12, s.src.r0), (0x02C#12, s.src.r1.setWidth 32),
        (0x030#12, s.ictrl.setWidth 32), (0x034#12, s.ufLen.setWidth 32), (0x038#12, s.txLen.setWidth 32),
        (0x03C#12, s.txLimit.setWidth 32), (0x040#12, s.rxLen.setWidth 32), (0x044#12, s.aesLen.setWidth 32),
        (0x060#12, s.iv.r0), (0x064#12, s.iv.r1), (0x068#12, s.iv.r2), (0x06C#12, s.iv.r3),
        (0x070#12, s.tag.r0), (0x074#12, s.tag.r1), (0x078#12, s.tag.r2), (0x07C#12, s.tag.r3),
        (0x080#12, s.rxi.setWidth 32), (0x084#12, s.rxDest.r0), (0x088#12, s.rxDest.r1.setWidth 32),
        (0x08C#12, s.rxSrc.r0), (0x090#12, s.rxSrc.r1.setWidth 32)] : List (BitVec 12 × Word)),
      memRead .w4 p.1 s = (p.2, s)) ∧
  (∀ (g : Group16) (k : Nat), k < 16 →
    (group16Bytes g).length = 16 ∧
      (group16Bytes g).getD k 0#8 = ([g.r0, g.r1, g.r2, g.r3].getD (k / 4) 0#32).extractLsb' (8 * (k % 4)) 8) ∧
  (∀ (g : Group8) (k : Nat), k < 8 →
    (group8Bytes g).length = 8 ∧ (group8Bytes g).getD k 0#8 = ([g.lo, g.hi].getD (k / 4) 0#32).extractLsb' (8 * (k % 4)) 8) ∧
  (∀ (g : Group7) (k : Nat), k < 7 →
    (group7Bytes g).length = 7 ∧
      (group7Bytes g).getD k 0#8 = ([g.r0, g.r1.setWidth 32].getD (k / 4) 0#32).extractLsb' (8 * (k % 4)) 8) ∧
  ∀ (s : State) (v : Word), s.seq = .idle →
    (∀ off ∈ [0x038#12, 0x080#12, 0x084#12, 0x088#12, 0x08C#12, 0x090#12], memWrite .w4 off v s = s) ∧
    (∀ off ∈ [0x004#12, 0x050#12, 0x054#12, 0x058#12, 0x05C#12], memRead .w4 off s = (0#32, s)) ∧
    memWrite .w4 0x050#12 v s = { s with keyIn := { s.keyIn with r0 := v } } ∧
    memWrite .w4 0x054#12 v s = { s with keyIn := { s.keyIn with r1 := v } } ∧
    memWrite .w4 0x058#12 v s = { s with keyIn := { s.keyIn with r2 := v } } ∧
    memWrite .w4 0x05C#12 v s = { s with keyIn := { s.keyIn with r3 := v } }

/-- R35, R36: the fields of STATUS as a read returns them, and what a write to it does; both also while BUSY; its reset value; and the
number of every error code in ERRCODE (R293 to R307). -/
def Obligations.StatusRegister : Prop :=
  (∀ (s : State) (v : Word),
    (memRead .w4 0x008#12 s).2 = s ∧
    ((memRead .w4 0x008#12 s).1.getLsbD 0 = true ↔ s.seq = .busy) ∧
    (memRead .w4 0x008#12 s).1.getLsbD 1 = s.done ∧ (memRead .w4 0x008#12 s).1.getLsbD 2 = s.accErr ∧
    (memRead .w4 0x008#12 s).1.extractLsb' 3 5 = 0#5 ∧ (memRead .w4 0x008#12 s).1.extractLsb' 8 8 = errNumber s.errCode ∧
    (memRead .w4 0x008#12 s).1.extractLsb' 16 5 = s.nCorr ∧ (memRead .w4 0x008#12 s).1.extractLsb' 21 3 = 0#3 ∧
    (memRead .w4 0x008#12 s).1.getLsbD 24 = s.rsReady ∧ (memRead .w4 0x008#12 s).1.getLsbD 25 = s.keyValid ∧
    (memRead .w4 0x008#12 s).1.extractLsb' 26 6 = 0#6 ∧
    memWrite .w4 0x008#12 v s =
      { s with
        done := if v.getLsbD 1 = true then false else s.done, accErr := if v.getLsbD 2 = true then false else s.accErr }) ∧
    (memRead .w4 0x008#12 State.reset).1 = 0x00000000#32 ∧
  [ErrCode.none, .illegal, .notInit, .noKey, .len, .arg, .uncorrectable, .auth, .overflow, .flag, .corrupt, .fcs, .frameType, .pid,
    .ucmd].map errNumber =
    [0x00#8, 0x01#8, 0x02#8, 0x03#8, 0x04#8, 0x05#8, 0x06#8, 0x07#8, 0x08#8, 0x09#8, 0x0A#8, 0x0B#8, 0x0C#8, 0x0D#8, 0x0E#8]

/-- R292: a CMD write in state IDLE is accepted: SEQ, CUR and the four STATUS fields change, ACCERR does not; the word then runs as it
decodes, on the state of the acceptance (`latLeft := 0` lets the completion be the next step: LAT = 1, notes/assumptions/2.md). A CMD
write in state BUSY is refused. -/
def Obligations.CommandAcceptance : Prop :=
  ∀ (s : State) (w : Word),
    (s.seq = .idle →
      memWrite .w4 0x004#12 w s =
        { s with
          seq := .busy, cur := w, done := false, errCode := .none, nCorr := 0#5,
          latLeft := (memWrite .w4 0x004#12 w s).latLeft, lats := s.lats.tail } ∧
      (∀ why, decode w = .illegal why →
        step { memWrite .w4 0x004#12 w s with latLeft := 0 } =
          .next { memWrite .w4 0x004#12 w s with latLeft := 0, seq := .idle, errCode := .illegal, done := true }) ∧
      (∀ i, decode w = .command i →
        step { memWrite .w4 0x004#12 w s with latLeft := 0 } = exec i { memWrite .w4 0x004#12 w s with latLeft := 0 })) ∧
    (s.seq = .busy → memWrite .w4 0x004#12 w s = { s with accErr := true })

/-- R309, R70: the interrupt output is IRQ_EN AND DONE, on IRQ_LINE, in every state; every completion, of a command or of an illegal
word, with an error or with success, raises it where it is enabled; the acceptance of the next command, a STATUS write with bit 1 set,
and clearing IRQ_EN lower it, the last without clearing DONE; a refused access does not change it. (That a completion is due when
`latLeft` is 0 is the model's choice: notes/assumptions/2.md, 5.md.) -/
def Obligations.CompletionInterrupt : Prop :=
  (∀ s : State, irqLines s = if (s.irqEn && s.done) = true then [Config.irqLine] else []) ∧
    (∀ (i : Instr) (s t : State), exec i s = .next t → irqLines t = if s.irqEn = true then [Config.irqLine] else []) ∧
    (∀ s t : State, s.seq = .busy → s.latLeft = 0 → step s = .next t →
      irqLines t = if s.irqEn = true then [Config.irqLine] else []) ∧
    ∀ (s : State) (w : Word),
      (s.seq = .idle → irqLines (memWrite .w4 0x004#12 w s) = []) ∧
      (w.getLsbD 1 = true → irqLines (memWrite .w4 0x008#12 w s) = []) ∧
      (w.getLsbD 0 = false → irqLines (memWrite .w4 0x000#12 w s) = [] ∧ (memWrite .w4 0x000#12 w s).done = s.done) ∧
      ∀ (n : BusWidth) (off : BitVec 12), refusedAccess n off.toNat s = true →
        irqLines (memWrite n off w s) = irqLines s ∧ irqLines (memRead n off s).2 = irqLines s

/-- R81: the window is the 4096 bytes from CORE_BASE, a multiple of 4096; host address CORE_BASE + off reaches block offset off, and an
access outside the window does nothing to the block. (The model's choices: `readLog` holds what a read returned, notes/assumptions/6.md;
an address is a natural number, and an access outside the window returns no value and leaves the state as it is, notes/assumptions/15.md.
An access that starts below the window and reaches into it is left out.) -/
def Obligations.HostAddressWindow : Prop :=
  Config.coreBase % 4096 = 0 ∧
    (∀ (n : BusWidth) (off : BitVec 12) (v : Word) (s : State),
      performOp (.writeAt n (Config.coreBase + off.toNat) v) s = memWrite n off v s ∧
        performOp (.readAt n (Config.coreBase + off.toNat)) s =
          { (memRead n off s).2 with readLog := (memRead n off s).1 :: s.readLog }) ∧
    ∀ (n : BusWidth) (addr : Nat) (v : Word) (s : State),
      (addr + widthBytes n ≤ Config.coreBase ∨ Config.coreBase + 4096 ≤ addr) →
      performOp (.writeAt n addr v) s = s ∧ performOp (.readAt n addr) s = s

/-! ## Reset -/

/-- R320: what reset leaves, as the host reads it and in the hidden state: every register reads 0 but TX_LIMIT = 331, every buffer byte
is 0x00, the sequencer is idle, the engine's key is all zero, and the interrupt output is 0. (CUR is unobservable and left out.) -/
def Obligations.ResetState : Prop :=
  (∀ off : BitVec 12, off.toNat < 0x100 →
    (memRead .w4 off State.reset).1 = if off = 0x03C#12 then 0x0000014B#32 else 0#32) ∧
    (∀ a, readByte State.reset.mem a = 0x00#8) ∧ State.reset.seq = .idle ∧
    group16Bytes State.reset.keyIn = List.replicate 16 0x00#8 ∧
    group16Bytes State.reset.keyState = List.replicate 16 0x00#8 ∧ irqLines State.reset = []

/-- R321: a reset abandons the command in flight: every piece of the block's state takes its reset value (CUR the model's 0,
notes/assumptions/1.md; the host's own side is kept, notes/assumptions/12.md). -/
def Obligations.ResetAbandonsTheCommand : Prop :=
  ∀ (s : State) (rest : List HostOp), s.host = .reset :: rest → (s.seq = .busy → s.latLeft ≠ 0) →
    step s = .next { State.reset with lats := s.lats, host := rest, readLog := s.readLog }

/-! ## Whole-machine rules over the commands -/

/-- R290: an error completion changes nothing but SEQ, ERRCODE and DONE, whatever the command. -/
def Obligations.FailedCommandChangesOnlyStatus : Prop :=
  ∀ (i : Instr) (s t : State), exec i s = .next t → t.errCode ≠ .none →
    t = { s with seq := .idle, errCode := t.errCode, done := true }

/-- R290, R291, R37: every command, from every state, completes: a next state that is idle with DONE set, ACCERR, IRQ_EN and CUR as
they were. -/
def Obligations.EveryCommandCompletes : Prop :=
  ∀ (i : Instr) (s : State), ∃ t, exec i s = .next t ∧ t.seq = .idle ∧ t.done = true ∧ t.accErr = s.accErr ∧
    t.irqEn = s.irqEn ∧ t.cur = s.cur

/-- R43, R44, R47, R50 to R54, R68: no command writes the host's input registers or the buffer RX. -/
def Obligations.CommandsLeaveTheHostsInputs : Prop :=
  ∀ (i : Instr) (s t : State), exec i s = .next t →
    t.cs = s.cs ∧ t.addrCfg = s.addrCfg ∧ t.ictrl = s.ictrl ∧ t.txLimit = s.txLimit ∧ t.rxLen = s.rxLen ∧
      t.aesLen = s.aesLen ∧ t.keyIn = s.keyIn ∧ t.iv = s.iv ∧ bufAll .rx t = bufAll .rx s

/-- R40, R41, R42, R45, R46, R48, R49, R55, R56, R57: each output register changes only in the commands the rules name. -/
def Obligations.OutputRegistersHaveTheirWriters : Prop :=
  ∀ (i : Instr) (s t : State), exec i s = .next t →
    (i ≠ .rsDecode → t.nCorr = s.nCorr) ∧ (i ≠ .rsInit → i ≠ .rsRelease → t.rsReady = s.rsReady) ∧
      (s.keyValid = true → t.keyValid = true) ∧ (i ≠ .aesSetkey → t.keyValid = s.keyValid) ∧
      (i ≠ .ax25Addr .dest → t.dest = s.dest) ∧ (i ≠ .ax25Addr .src → t.src = s.src) ∧
      (i ≠ .ax25FrameI → (∀ u p, i ≠ .ax25FrameU u p) → i ≠ .ax25Unstuff → t.ufLen = s.ufLen) ∧
      (i ≠ .ax25Stuff → t.txLen = s.txLen) ∧ (i ≠ .aesGcmEnc → t.tag = s.tag) ∧
      (i ≠ .ax25Recv → t.rxi = s.rxi ∧ t.rxDest = s.rxDest ∧ t.rxSrc = s.rxSrc)

/-- R63 to R67: each buffer changes only in the commands the rules name. -/
def Obligations.BuffersHaveTheirWriters : Prop :=
  ∀ (i : Instr) (s t : State), exec i s = .next t →
    (i ≠ .rsDecode → bufAll .msg t = bufAll .msg s) ∧
      (i ≠ .rsEncode → i ≠ .ax25Recv → bufAll .cw t = bufAll .cw s) ∧
      (i ≠ .aesCtr → i ≠ .aesGcmEnc → i ≠ .aesGcmDec → bufAll .adata t = bufAll .adata s) ∧
      (i ≠ .ax25FrameI → (∀ u p, i ≠ .ax25FrameU u p) → i ≠ .ax25Unstuff → bufAll .uf t = bufAll .uf s) ∧
      (i ≠ .ax25Stuff → bufAll .tx t = bufAll .tx s)

/-- R62: AES_SETKEY writes KEYSTATE; no other command and no host access can write it, and no host access can read it, or the
staged key (R53): what a read returns does not depend on either. -/
def Obligations.KeyStateIsSealed : Prop :=
  (∀ (i : Instr) (s t : State), exec i s = .next t → t.keyState = if i = .aesSetkey then s.keyIn else s.keyState) ∧
    (∀ (n : BusWidth) (off : BitVec 12) (v : Word) (s : State),
      (memWrite n off v s).keyState = s.keyState ∧ (memRead n off s).2.keyState = s.keyState) ∧
    ∀ (n : BusWidth) (off : BitVec 12) (s : State) (k k' : Group16),
      (memRead n off { s with keyIn := k, keyState := k' }).1 = (memRead n off s).1

/-- The invariant of Safety.lean (canonical memory; R39, R40, R49, R42 with R62, R56, and STATUS while BUSY by R292) is kept by every
step, from every state. -/
def Obligations.StepKeepsTheInvariant : Prop :=
  ∀ s t : State, stateInv s = true → step s = .next t → stateInv t = true

/-- The invariant holds at reset. -/
def Obligations.ResetMeetsTheInvariant : Prop := stateInv State.reset = true

/-! ## The Reed-Solomon engine -/

/-- R154, R155: RS_INIT sets RS_READY and RS_RELEASE clears it; nothing else but the handshake changes. -/
def Obligations.RsContextCommands : Prop :=
  ∀ s : State,
    exec .rsInit s = .next { s with seq := .idle, errCode := .none, done := true, rsReady := true } ∧
      exec .rsRelease s = .next { s with seq := .idle, errCode := .none, done := true, rsReady := false }

/-- R295, R156, R157: RS_ENCODE and RS_DECODE with RS_READY = 0 complete with ERR_NOT_INIT = 0x02. -/
def Obligations.RsCommandsNeedTheContext : Prop :=
  errNumber .notInit = 0x02#8 ∧
    ∀ (s : State), s.rsReady = false → ∀ i ∈ [Instr.rsEncode, Instr.rsDecode],
      exec i s = .next { s with seq := .idle, errCode := .notInit, done := true }

/-- R156: with RS_READY = 1 RS_ENCODE completes, CW becomes RSenc(MSG), and nothing else changes. -/
def Obligations.RsEncodeWritesTheCodeword : Prop :=
  ∀ s : State, s.rsReady = true →
    ∃ t, exec .rsEncode s = .next t ∧ t = { s with seq := .idle, errCode := .none, done := true, mem := t.mem } ∧
      bufAll .cw t = rsEnc (bufAll .msg s) ∧ keepsBytesOutside 0x200 255 s t

/-- R157: with RS_READY = 1 RS_DECODE on a CW that RSdec decodes to (msg, n) completes, MSG becomes msg, NCORR n, CW and the rest keep
their values; on a CW that RSdec fails on it completes with ERR_UNCORRECTABLE. -/
def Obligations.RsDecodeWritesTheMessage : Prop :=
  ∀ s : State, s.rsReady = true →
    (∀ msg n, rsDec (bufAll .cw s) = some (msg, n) →
      ∃ t, exec .rsDecode s = .next t ∧
        t = { s with seq := .idle, errCode := .none, done := true, nCorr := BitVec.ofNat 5 n, mem := t.mem } ∧
        t.nCorr.toNat = n ∧ n ≤ 16 ∧ bufAll .msg t = msg ∧ keepsBytesOutside 0x100 223 s t) ∧
    (rsDec (bufAll .cw s) = none →
      exec .rsDecode s = .next { s with seq := .idle, errCode := .uncorrectable, done := true })

/-- The field: R141: GF.mul is the result of its loop; R142: alpha^0 = 1, alpha^(k+1) = GF.mul(alpha^k, 0x02), and of a nonzero byte
GF.log is its exponent in 0..254 and GF.inv alpha^(255 - GF.log). R143, R145: Horner's rule gives the value at alpha^j of the polynomial
that a codeword stands for, byte 0 its highest coefficient. R146: RSenc is systematic: the message, then 32 parity bytes, for
MSG[222] = 0x01 behind zeros the coefficients g_31..g_0 of R144; R145: the result is a codeword, its polynomial vanishing at alpha^j for
j = 1..32 (its 32 syndromes, R149, are 0); and R158 (c): RSenc is linear over XOR. -/
def Obligations.EncodingGivesSystematicCodewords : Prop :=
  (∀ (a b : Byte) (r x : Nat → Byte), gfMulTurns a b r x → gfMul a b = r 8) ∧
  (alphaPow 0 = 0x01#8 ∧ ∀ k, alphaPow (k + 1) = gfMul (alphaPow k) 0x02#8) ∧
  (∀ a : Byte, a ≠ 0#8 → ∃ k, k < 255 ∧ gfLog a = some k ∧ alphaPow k = a ∧ gfInv a = alphaPow (255 - k)) ∧
  (∀ (c : List Byte) (j : Nat), c.length = 255 → hornerHigh (alphaPow j) c 0#8 = codewordValue c j) ∧
  rsEnc (List.replicate 222 0x00#8 ++ [0x01#8]) =
    List.replicate 222 0x00#8 ++ [0x01#8] ++
      [0x95#8, 0x3F#8, 0x9E#8, 0x97#8, 0xF2#8, 0x3C#8, 0xB9#8, 0xE5#8, 0x99#8, 0xB5#8, 0xAB#8, 0x37#8, 0xB1#8, 0xFE#8, 0x0D#8,
        0x82#8, 0x85#8, 0x0D#8, 0x54#8, 0xF2#8, 0x4C#8, 0xE8#8, 0xAC#8, 0xC5#8, 0xFB#8, 0xB3#8, 0xDB#8, 0xCD#8, 0x77#8, 0x87#8,
        0xB6#8, 0x3B#8] ∧
  (∀ m : List Byte, m.length = 223 →
    (rsEnc m).length = 255 ∧ (rsEnc m).take 223 = m ∧
      ∀ j, 1 ≤ j → j ≤ 32 → hornerHigh (alphaPow j) (rsEnc m) 0#8 = 0#8) ∧
    ∀ a b : List Byte, a.length = 223 → b.length = 223 → rsEnc (xorBytes a b) = xorBytes (rsEnc a) (rsEnc b)

/-- R148 (soundness of the decoder): what RSdec answers Ok(msg, n) for lies at distance n, at most 16, from a codeword whose message
is msg. -/
def Obligations.DecoderIsSound : Prop :=
  ∀ (r msg : List Byte) (n : Nat), r.length = 255 → rsDec r = some (msg, n) →
    n ≤ 16 ∧ ∃ c : List Byte, c.length = 255 ∧ (∀ j, 1 ≤ j → j ≤ 32 → hornerHigh (alphaPow j) c 0#8 = 0#8) ∧
      c.take 223 = msg ∧ hamming r c = n

/-- R158 (a): RSdec(RSenc(m)) = Ok(m, 0) for every 223-byte m. -/
def Obligations.RsRoundTrip : Prop := ∀ m : List Byte, m.length = 223 → rsDec (rsEnc m) = some (m, 0)

/-- R158 (b) for one corrupted byte: for every message, every byte position and every nonzero error value, the decoder recovers the
message and counts one corrected byte. -/
def Obligations.RsCorrectsOneByte : Prop :=
  ∀ (m : List Byte) (p : Nat) (e : Byte), m.length = 223 → p < 255 → e ≠ 0#8 →
    rsDec ((rsEnc m).set p ((rsEnc m).getD p 0#8 ^^^ e)) = some (m, 1)

/-- R148, R158 (b): decoding is bounded-distance decoding: a word within distance 16 of a codeword decodes to that codeword's message
and the distance; the decoder fails exactly where every codeword is farther than 16; and so every pattern of at most 16 corrupted
bytes is corrected and counted. -/
def Obligations.RsDecodesWithinSixteen : Prop :=
  (∀ r c : List Byte, r.length = 255 → isCodeword c → hamming r c ≤ 16 → rsDec r = some (c.take 223, hamming r c)) ∧
    (∀ r : List Byte, r.length = 255 → (rsDec r = none ↔ ∀ c, isCodeword c → 16 < hamming r c)) ∧
    ∀ m e : List Byte, m.length = 223 → e.length = 255 → e.countP (· != 0#8) ≤ 16 →
      rsDec (xorBytes (rsEnc m) e) = some (m, e.countP (· != 0#8))

/-! ## The AES engine -/

/-- R180 to R184: the cipher. The S-box is the affine map of the inverse modulo 0x11B (R181). For the words w[i] of the key expansion
(R183) and the states s[n][r][c] after AddRoundKey(n), n = 0..10, each computed from the one before as R182 and R184 say, AES.enc
returns the bytes of s[10] column by column (R180). -/
def Obligations.AesCipherFollowsTheRules : Prop :=
  (∀ a b : Byte, (a = 0#8 ∧ b = 0#8 ∨ aesMul a b = 1#8) → ∀ i, i < 8 →
    (sbox a).getLsbD i =
      (b.getLsbD i ^^ b.getLsbD ((i + 4) % 8) ^^ b.getLsbD ((i + 5) % 8) ^^ b.getLsbD ((i + 6) % 8) ^^
        b.getLsbD ((i + 7) % 8) ^^ (0x63#8).getLsbD i)) ∧
    (∀ a : Byte, a ≠ 0#8 → ∃ b, aesMul a b = 1#8) ∧
    ∀ (k x : List Byte) (w : Nat → Nat → Byte) (s : Nat → Nat → Nat → Byte),
      k.length = 16 → x.length = 16 → keyWords k w → cipherStates x w s →
      (aesEnc k x).length = 16 ∧ ∀ r c, r < 4 → c < 4 → (aesEnc k x).getD (r + 4 * c) 0#8 = s 10 r c

/-- R190: AES_SETKEY copies KEYIN into KEYSTATE and sets KEY_VALID. -/
def Obligations.AesSetkeyLoadsTheKey : Prop :=
  ∀ s : State,
    exec .aesSetkey s = .next { s with seq := .idle, errCode := .none, done := true, keyState := s.keyIn, keyValid := true }

/-- R191, R296, R297, R308: the three AES data commands check the length first, then the key. -/
def Obligations.AesChecksLengthThenKey : Prop :=
  ∀ (s : State), ∀ i ∈ [Instr.aesCtr, Instr.aesGcmEnc, Instr.aesGcmDec],
    (207 < s.aesLen.toNat → exec i s = .next { s with seq := .idle, errCode := .len, done := true }) ∧
      (s.aesLen.toNat ≤ 207 → s.keyValid = false →
        exec i s = .next { s with seq := .idle, errCode := .noKey, done := true }) ∧
      (∀ t, s.aesLen.toNat ≤ 207 → s.keyValid = true → exec i s = .next t → t.errCode ≠ .len ∧ t.errCode ≠ .noKey)

/-- R192, R185: AES_CTR replaces ADATA[0..n) by its XOR with the keystream whose k-th block is AES.enc(K, IV + k modulo 2^128), and
changes nothing else. -/
def Obligations.AesCtrEncrypts : Prop :=
  ∀ s : State, s.aesLen.toNat ≤ 207 → s.keyValid = true →
    ∃ t, exec .aesCtr s = .next t ∧ t = { s with seq := .idle, errCode := .none, done := true, mem := t.mem } ∧
      (∀ i, i < s.aesLen.toNat →
        bufByte .adata i t =
          bufByte .adata i s ^^^
            (aesEnc (group16Bytes s.keyState)
              (beBytes 16 (intBe 128 (group16Bytes s.iv) + BitVec.ofNat 128 (i / 16)))).getD (i % 16) 0#8) ∧
      keepsBytesOutside 0x300 s.aesLen.toNat s t

/-- R193, R188: AES_GCM_ENC completes; ADATA[0..n) and TAG become the ciphertext and tag of GCMenc; nothing else changes. Byte i of
the data is masked by the key stream from inc32(J0) on, and the tag is AES.enc(K, J0) XOR GHASH over the padded ciphertext and the
lengths, with H and J0 as R187 defines them. R186: what GHASH and mul128 are, and the big-endian encodings. -/
def Obligations.AesGcmEncryptsAndTags : Prop :=
  (∀ s : State, s.aesLen.toNat ≤ 207 → s.keyValid = true →
    ∀ h j0, isGcmStart (group16Bytes s.keyState) (group16Bytes s.iv) h j0 →
    ∃ t, exec .aesGcmEnc s = .next t ∧
      t = { s with seq := .idle, errCode := .none, done := true, tag := t.tag, mem := t.mem } ∧
      (bufSlice .adata 0 s.aesLen.toNat t, group16Bytes t.tag) =
        gcmEnc (group16Bytes s.keyState) (group16Bytes s.iv) (bufSlice .adata 0 s.aesLen.toNat s) ∧
      (∀ i, i < s.aesLen.toNat →
        bufByte .adata i t = bufByte .adata i s ^^^ gcmStreamByte (group16Bytes s.keyState) j0 i) ∧
      group16Bytes t.tag = gcmTagOf (group16Bytes s.keyState) h j0 (bufSlice .adata 0 s.aesLen.toNat t) ∧
      keepsBytesOutside 0x300 s.aesLen.toNat s t) ∧
    (∀ h : BitVec 128, ghash h [] = 0#128) ∧
    (∀ (h : BitVec 128) (l b : List Byte), l.length % 16 = 0 → b.length = 16 →
      ghash h (l ++ b) = mul128 (ghash h l ^^^ intBe 128 b) h) ∧
    (∀ (x y : BitVec 128) (z v : Nat → BitVec 128), mulRounds x y z v → mul128 x y = z 128) ∧
    (∀ (v : BitVec 128) (i : Nat), i < 16 →
      (beBytes 16 v).getD i 0#8 = v.extractLsb' (8 * (15 - i)) 8 ∧ intBe 128 (beBytes 16 v) = v) ∧
    ∀ (v : BitVec 64) (i : Nat), i < 8 → (beBytes 8 v).getD i 0#8 = v.extractLsb' (8 * (7 - i)) 8

/-- R194, R189: AES_GCM_DEC completes with the plaintext in ADATA[0..n) where the computed tag is TAG; where they differ in any bit it
completes with ERR_AUTH and ADATA still holds the ciphertext. The tag and the key stream are those of R187 and R188, over the
ciphertext the buffer holds. -/
def Obligations.AesGcmDecryptsOnlyAuthentic : Prop :=
  ∀ s : State, s.aesLen.toNat ≤ 207 → s.keyValid = true →
    ∀ h j0, isGcmStart (group16Bytes s.keyState) (group16Bytes s.iv) h j0 →
    gcmTag (group16Bytes s.keyState) (group16Bytes s.iv) (bufSlice .adata 0 s.aesLen.toNat s) =
      gcmTagOf (group16Bytes s.keyState) h j0 (bufSlice .adata 0 s.aesLen.toNat s) ∧
    (group16Bytes s.tag = gcmTagOf (group16Bytes s.keyState) h j0 (bufSlice .adata 0 s.aesLen.toNat s) →
      ∃ t, exec .aesGcmDec s = .next t ∧ t = { s with seq := .idle, errCode := .none, done := true, mem := t.mem } ∧
        bufSlice .adata 0 s.aesLen.toNat t =
          gcmCrypt (group16Bytes s.keyState) (group16Bytes s.iv) (bufSlice .adata 0 s.aesLen.toNat s) ∧
        (∀ i, i < s.aesLen.toNat →
          bufByte .adata i t = bufByte .adata i s ^^^ gcmStreamByte (group16Bytes s.keyState) j0 i) ∧
        keepsBytesOutside 0x300 s.aesLen.toNat s t) ∧
    (group16Bytes s.tag ≠ gcmTagOf (group16Bytes s.keyState) h j0 (bufSlice .adata 0 s.aesLen.toNat s) →
      exec .aesGcmDec s = .next { s with seq := .idle, errCode := .auth, done := true })

/-- R195 (b): AES_GCM_DEC after AES_GCM_ENC succeeds and restores every byte. -/
def Obligations.AesGcmRoundTrip : Prop :=
  ∀ s : State, s.aesLen.toNat ≤ 207 → s.keyValid = true →
    ∃ t u, exec .aesGcmEnc s = .next t ∧ exec .aesGcmDec t = .next u ∧ u.errCode = .none ∧
      ∀ a, readByte u.mem a = readByte s.mem a

/-- R195 (a), (b), (c): counter mode is its own inverse, GCM decryption undoes encryption, and the data keep their length. -/
def Obligations.AesLaws : Prop :=
  ∀ k iv d : List Byte,
    aesCtrMode k iv (aesCtrMode k iv d) = d ∧
      gcmDec k iv (gcmEnc k iv d).1 (gcmEnc k iv d).2 = some d ∧
      (aesCtrMode k iv d).length = d.length ∧ (gcmEnc k iv d).1.length = d.length ∧ (gcmEnc k iv d).2.length = 16

/-! ## Check values -/

/-- R224's check values of the FCS; the examples of stuffing and unstuffing (R236, R243, R263, and S-7 of
95_test_vectors.md); the examples of GF.mul, GF.inv and GF.log (R141, R142), of AES.enc (R184), of H and J0 (R187), of
AES_CTR's keystream (R192) and of GCM (R193). -/
def Obligations.EngineCheckValues : Prop :=
  (fcs [0x31#8, 0x32#8, 0x33#8, 0x34#8, 0x35#8, 0x36#8, 0x37#8, 0x38#8, 0x39#8] = 0x906E#16 ∧ fcs [] = 0x0000#16) ∧
    (stuffFrame [0x1F#8] = [0x7E#8, 0x1F#8, 0x00#8, 0x7E#8] ∧
      stuffFrame [0xFF#8, 0x03#8] = [0x7E#8, 0xDF#8, 0x07#8, 0x00#8, 0x7E#8] ∧
      stuffFrame
          [0xA8#8, 0x8A#8, 0xA6#8, 0xA8#8, 0x62#8, 0x40#8, 0xE2#8, 0xA8#8, 0x8A#8, 0xA6#8, 0xA8#8, 0x64#8, 0x40#8, 0x65#8, 0x13#8,
            0xF0#8, 0x1A#8, 0xFA#8] =
        [0x7E#8, 0xA8#8, 0x8A#8, 0xA6#8, 0xA8#8, 0x62#8, 0x40#8, 0xE2#8, 0xA8#8, 0x8A#8, 0xA6#8, 0xA8#8, 0x64#8, 0x40#8, 0x65#8,
          0x13#8, 0xF0#8, 0x1A#8, 0xFA#8, 0x00#8, 0x7E#8] ∧
      unstuffBody [0x5F#8, 0x00#8] = some [0x3F#8] ∧
      unstuffBody [0x3F#8] = none) ∧
    (gfMul 0x80#8 0x02#8 = 0x87#8 ∧ gfMul 0x53#8 0xCA#8 = 0xA8#8 ∧ gfInv 0x02#8 = 0xC3#8 ∧ gfInv 0x53#8 = 0x4D#8 ∧
      gfLog 0x03#8 = some 99) ∧
    ∀ k iv zeros16 : List Byte,
      k = beBytes 16 0x000102030405060708090A0B0C0D0E0F#128 → iv = List.replicate 16 0x01#8 → zeros16 = List.replicate 16 0x00#8 →
      aesEnc k (beBytes 16 0x00112233445566778899AABBCCDDEEFF#128) = beBytes 16 0x69C4E0D86A7B0430D8CDB78070B4C55A#128 ∧
        aesEnc k zeros16 = beBytes 16 0xC6A13B37878F5B826F4F8162A1C8D879#128 ∧
        gcmH k = 0xC6A13B37878F5B826F4F8162A1C8D879#128 ∧ gcmJ0 k iv = 0x5B6B120829CB52C34E04EA2B50759759#128 ∧
        aesCtrMode k iv (zeros16 ++ zeros16) =
          beBytes 16 0xC352805754237F311AC0FFF4E3E03E78#128 ++ beBytes 16 0x701078A2CCE05EA000651D41388C02CA#128 ∧
        gcmEnc k iv zeros16 =
          (beBytes 16 0xA58FF6C9292351E739FE89796B02C18D#128, beBytes 16 0x5A452B0622BF12141BBF7353BDF0277D#128) ∧
        gcmEnc k iv [] = ([], beBytes 16 0xF1152182730FFCF926E4ED76CA936FFB#128)

/-! ## The AX.25 framer -/

/-- R240, R221 to R223: AX25_ADDR with CS_LEN at most 6 writes the seven address bytes into the register pair SEL names, E = SEL, and
nothing else; with a longer call sign it completes with ERR_ARG. -/
def Obligations.Ax25AddrPacksTheCallSign : Prop :=
  ∀ s : State,
    ((s.addrCfg.extractLsb' 0 4).toNat ≤ 6 →
      (∃ t, exec (.ax25Addr .dest) s = .next t ∧
        t = { s with seq := .idle, errCode := .none, done := true, dest := t.dest } ∧
        (∀ k, k < 6 → (group7Bytes t.dest).getD k 0#8 =
          (if k < (s.addrCfg.extractLsb' 0 4).toNat then (group8Bytes s.cs).getD k 0#8 else 0x20#8) <<< 1) ∧
        (group7Bytes t.dest).getD 6 0#8 =
          ((BitVec.ofBool (s.addrCfg.getLsbD 8)).setWidth 8 <<< 7) ||| 0x60#8 |||
            ((s.addrCfg.extractLsb' 4 4).setWidth 8 <<< 1) ||| 0x00#8) ∧
      (∃ t, exec (.ax25Addr .src) s = .next t ∧
        t = { s with seq := .idle, errCode := .none, done := true, src := t.src } ∧
        (∀ k, k < 6 → (group7Bytes t.src).getD k 0#8 =
          (if k < (s.addrCfg.extractLsb' 0 4).toNat then (group8Bytes s.cs).getD k 0#8 else 0x20#8) <<< 1) ∧
        (group7Bytes t.src).getD 6 0#8 =
          ((BitVec.ofBool (s.addrCfg.getLsbD 8)).setWidth 8 <<< 7) ||| 0x60#8 |||
            ((s.addrCfg.extractLsb' 4 4).setWidth 8 <<< 1) ||| 0x01#8)) ∧
    (6 < (s.addrCfg.extractLsb' 0 4).toNat → ∀ sel,
      exec (.ax25Addr sel) s = .next { s with seq := .idle, errCode := .arg, done := true })

/-- R241, R229, R220, R225, R226, R228: AX25_FRAME_I builds the 276-byte I-frame around CW in UF, field by field, sets UF_LEN, and
changes nothing else. R224: the FCS of any bytes, by the turns of its loop, from 0xFFFF and with the final XOR of 0xFFFF. -/
def Obligations.Ax25FrameIBuildsTheFrame : Prop :=
  (fcs [] = 0xFFFF#16 ^^^ 0xFFFF#16 ∧
    ∀ (d : List Byte) (b : Byte) (c : Nat → BitVec 16), fcsTurns d b c → fcs (d ++ [b]) = c 8 ^^^ 0xFFFF#16) ∧
  ∀ s : State, ∃ t, exec .ax25FrameI s = .next t ∧
    t = { s with seq := .idle, errCode := .none, done := true, ufLen := 276#9, mem := t.mem } ∧
    bufByte .uf 0 t = 0x7E#8 ∧ bufSlice .uf 1 8 t = group7Bytes s.dest ∧ bufSlice .uf 8 15 t = group7Bytes s.src ∧
    bufByte .uf 15 t = (s.ictrl.extractLsb' 0 7).setWidth 8 <<< 1 ∧
    bufByte .uf 16 t = ((s.ictrl.extractLsb' 8 7).setWidth 8 <<< 1) ||| (BitVec.ofBool (s.ictrl.getLsbD 7)).setWidth 8 ∧
    bufByte .uf 17 t = 0xF0#8 ∧ bufSlice .uf 18 273 t = bufAll .cw s ∧
    bufByte .uf 273 t = (fcs (bufSlice .uf 1 273 t)).setWidth 8 ∧
    bufByte .uf 274 t = (fcs (bufSlice .uf 1 273 t) >>> 8).setWidth 8 ∧ bufByte .uf 275 t = 0x7E#8 ∧
    keepsBytesOutside 0x400 276 s t

/-- R242, R230, R220, R225, R227, R228: AX25_FRAME_U with UCMD 0, 1 or 2 builds the 20-byte U-frame in UF, field by field, sets UF_LEN, and
changes nothing else; with UCMD 3 it completes with ERR_ARG. -/
def Obligations.Ax25FrameUBuildsTheFrame : Prop :=
  ∀ (s : State) (ucmd : BitVec 2) (pf : Bool),
    (ucmd ≠ 3#2 → ∃ t, exec (.ax25FrameU ucmd pf) s = .next t ∧
      t = { s with seq := .idle, errCode := .none, done := true, ufLen := 20#9, mem := t.mem } ∧
      bufByte .uf 0 t = 0x7E#8 ∧ bufSlice .uf 1 8 t = group7Bytes s.dest ∧ bufSlice .uf 8 15 t = group7Bytes s.src ∧
      bufByte .uf 15 t = 0x03#8 ||| (ucmd.setWidth 8 <<< 2) ||| ((BitVec.ofBool pf).setWidth 8 <<< 4) ∧
      bufByte .uf 16 t = 0xF0#8 ∧ bufByte .uf 17 t = (fcs (bufSlice .uf 1 17 t)).setWidth 8 ∧
      bufByte .uf 18 t = (fcs (bufSlice .uf 1 17 t) >>> 8).setWidth 8 ∧ bufByte .uf 19 t = 0x7E#8 ∧
      keepsBytesOutside 0x400 20 s t) ∧
    (ucmd = 3#2 → exec (.ax25FrameU ucmd pf) s = .next { s with seq := .idle, errCode := .arg, done := true })

/-- R243: AX25_STUFF: ERR_LEN outside 2..276; ERR_OVERFLOW where the stuffed frame of UF[1..L-1) is longer than min(TX_LIMIT, 331); else
TX[0..len) and TX_LEN hold it and nothing else changes. R232: the bit order, least significant bit first. R233: a 0 is inserted after
the fifth of five consecutive 1s, and the count starts afresh behind it; where no five 1s follow one another nothing is inserted.
R234, R235: 0-bits up to the next byte, and the two literal flags. -/
def Obligations.Ax25StuffWritesTheStuffedFrame : Prop :=
  (∀ l : List Byte, (bitsLSB l).length = 8 * l.length ∧
    ∀ i k, i < l.length → k < 8 → (bitsLSB l)[8 * i + k]? = some ((l.getD i 0#8).getLsbD k)) ∧
  (∀ b : List Bool, (packLSB b).length = b.length / 8 ∧
    ∀ i k, i < b.length / 8 → k < 8 → some (((packLSB b).getD i 0#8).getLsbD k) = b[8 * i + k]?) ∧
  (∀ b : List Bool, ¬fiveOnes b → stuffBits 0 b = b) ∧
  (∀ a rest : List Bool, ¬fiveOnes (a ++ List.replicate 4 true) →
    stuffBits 0 (a ++ List.replicate 5 true ++ rest) = a ++ List.replicate 5 true ++ false :: stuffBits 0 rest) ∧
  (∀ b : List Bool, ∃ n, n < 8 ∧ padBits b = b ++ List.replicate n false ∧ (padBits b).length % 8 = 0) ∧
  (∀ body : List Byte, stuffFrame body = [0x7E#8] ++ packLSB (padBits (stuffBits 0 (bitsLSB body))) ++ [0x7E#8]) ∧
  ∀ s : State,
    (s.ufLen.toNat < 2 ∨ 276 < s.ufLen.toNat →
      exec .ax25Stuff s = .next { s with seq := .idle, errCode := .len, done := true }) ∧
    (2 ≤ s.ufLen.toNat → s.ufLen.toNat ≤ 276 →
      min s.txLimit.toNat 331 < (stuffFrame (bufSlice .uf 1 (s.ufLen.toNat - 1) s)).length →
      exec .ax25Stuff s = .next { s with seq := .idle, errCode := .overflow, done := true }) ∧
    (2 ≤ s.ufLen.toNat → s.ufLen.toNat ≤ 276 →
      (stuffFrame (bufSlice .uf 1 (s.ufLen.toNat - 1) s)).length ≤ min s.txLimit.toNat 331 →
      ∃ t, exec .ax25Stuff s = .next t ∧
        t = { s with seq := .idle, errCode := .none, done := true, txLen := t.txLen, mem := t.mem } ∧
        t.txLen.toNat = (stuffFrame (bufSlice .uf 1 (s.ufLen.toNat - 1) s)).length ∧
        bufSlice .tx 0 t.txLen.toNat t = stuffFrame (bufSlice .uf 1 (s.ufLen.toNat - 1) s) ∧
        keepsBytesOutside 0x600 t.txLen.toNat s t)

/-- R235, R236: the length of a stuffed frame; at most floor(8m / 5) inserted bits for a body of m bytes; so an I-frame's body of 274 bytes,
and every shorter one, stuffs to at most 331 bytes, and a U-frame's of 18 to at most 24. -/
def Obligations.StuffedLengthBound : Prop :=
  ∀ body : List Byte,
    (stuffBits 0 (bitsLSB body)).length = 8 * body.length + stuffCount 0 (bitsLSB body) ∧
      (stuffFrame body).length = 2 + (8 * body.length + stuffCount 0 (bitsLSB body) + 7) / 8 ∧
      stuffCount 0 (bitsLSB body) ≤ 8 * body.length / 5 ∧
      (body.length ≤ 274 → (stuffFrame body).length ≤ 331) ∧ (body.length ≤ 18 → (stuffFrame body).length ≤ 24)

/-- R237: no six consecutive 1-bits occur within the stuffed, padded body, so the flag 0x7E appears at no bit offset inside it. -/
def Obligations.NoFlagInsideTheStuffedBody : Prop :=
  ∀ (body : List Byte) (i : Nat),
    (¬∀ k, k < 6 → (padBits (stuffBits 0 (bitsLSB body)))[i + k]? = some true) ∧
      ¬∀ k, k < 8 → (padBits (stuffBits 0 (bitsLSB body)))[i + k]? = some ((0x7E#8).getLsbD k)

/-! ## The AX.25 deframer -/

/-- R263: the four errors of AX25_UNSTUFF in their priority, and its success: UF[0..n+2) is the unstuffed body between new flags,
UF_LEN n + 2, and nothing else changes. R260: after five consecutive 1s the next bit is dropped where it is 0 and Corrupt is reported
where it is 1, and the count starts afresh behind it; where no five 1s follow one another, or they stand at the very end, every bit is
kept. R261, R232: eight kept bits to a byte, least significant first, and the bits left over are dropped. -/
def Obligations.Ax25UnstuffRebuildsTheFrame : Prop :=
  (∀ b : List Bool, ¬fiveOnes b → unstuffBits b = some b) ∧
  (∀ a rest : List Bool, ¬fiveOnes (a ++ List.replicate 4 true) →
    unstuffBits (a ++ List.replicate 5 true) = some (a ++ List.replicate 5 true) ∧
    unstuffBits (a ++ List.replicate 5 true ++ true :: rest) = none ∧
    unstuffBits (a ++ List.replicate 5 true ++ false :: rest) =
      (unstuffBits rest).map fun out => a ++ List.replicate 5 true ++ out) ∧
  (∀ b : List Bool, (packLSB b).length = b.length / 8 ∧
    ∀ i k, i < b.length / 8 → k < 8 → some (((packLSB b).getD i 0#8).getLsbD k) = b[8 * i + k]?) ∧
  ∀ s : State,
    (s.rxLen.toNat < 2 ∨ 331 < s.rxLen.toNat →
      exec .ax25Unstuff s = .next { s with seq := .idle, errCode := .len, done := true }) ∧
    (2 ≤ s.rxLen.toNat → s.rxLen.toNat ≤ 331 →
      (bufByte .rx 0 s ≠ 0x7E#8 ∨ bufByte .rx (s.rxLen.toNat - 1) s ≠ 0x7E#8 →
        exec .ax25Unstuff s = .next { s with seq := .idle, errCode := .flag, done := true }) ∧
      (bufByte .rx 0 s = 0x7E#8 → bufByte .rx (s.rxLen.toNat - 1) s = 0x7E#8 →
        (unstuffBits (bitsLSB (bufSlice .rx 1 (s.rxLen.toNat - 1) s)) = none →
          exec .ax25Unstuff s = .next { s with seq := .idle, errCode := .corrupt, done := true }) ∧
        ∀ out, unstuffBits (bitsLSB (bufSlice .rx 1 (s.rxLen.toNat - 1) s)) = some out →
          (276 < out.length / 8 + 2 →
            exec .ax25Unstuff s = .next { s with seq := .idle, errCode := .overflow, done := true }) ∧
          (out.length / 8 + 2 ≤ 276 →
            ∃ t, exec .ax25Unstuff s = .next t ∧
              t = { s with
                    seq := .idle, errCode := .none, done := true, ufLen := BitVec.ofNat 9 (out.length / 8 + 2), mem := t.mem } ∧
              bufSlice .uf 0 (out.length / 8 + 2) t = [0x7E#8] ++ packLSB out ++ [0x7E#8] ∧
              keepsBytesOutside 0x400 (out.length / 8 + 2) s t)))

/-- R260: UNSTUFFBITS reports Corrupt on every stuffed body that holds six consecutive 1-bits, and on no other. -/
def Obligations.UnstuffingDetectsSixOnes : Prop :=
  ∀ s : List Bool, unstuffBits s = none ↔ ∃ i, ∀ k, k < 6 → s[i + k]? = some true

/-- R268 (a): unstuffing undoes stuffing, through the two commands: with flags at both ends of UF and TX_LIMIT at least the stuffed
length, AX25_STUFF succeeds, and AX25_UNSTUFF on any state whose RX holds what TX then held restores UF and UF_LEN. -/
def Obligations.UnstuffUndoesStuff : Prop :=
  ∀ s : State, 2 ≤ s.ufLen.toNat → s.ufLen.toNat ≤ 276 → bufByte .uf 0 s = 0x7E#8 →
    bufByte .uf (s.ufLen.toNat - 1) s = 0x7E#8 →
    (stuffFrame (bufSlice .uf 1 (s.ufLen.toNat - 1) s)).length ≤ s.txLimit.toNat →
    ∃ t, exec .ax25Stuff s = .next t ∧ t.errCode = .none ∧
      ∀ r : State, r.rxLen = t.txLen → bufSlice .rx 0 t.txLen.toNat r = bufSlice .tx 0 t.txLen.toNat t →
        ∃ u, exec .ax25Unstuff r = .next u ∧ u.errCode = .none ∧ u.ufLen = s.ufLen ∧
          bufSlice .uf 0 s.ufLen.toNat u = bufSlice .uf 0 s.ufLen.toNat s

/-- R267, R265: the checks of AX25_RECV that come before any field, in their order: length, flags, FCS. -/
def Obligations.Ax25RecvChecksTheFrame : Prop :=
  ∀ s : State,
    (s.ufLen.toNat ≠ 20 → s.ufLen.toNat ≠ 276 →
      exec .ax25Recv s = .next { s with seq := .idle, errCode := .len, done := true }) ∧
    ∀ l, s.ufLen.toNat = l → l = 20 ∨ l = 276 →
      (bufByte .uf 0 s ≠ 0x7E#8 ∨ bufByte .uf (l - 1) s ≠ 0x7E#8 →
        exec .ax25Recv s = .next { s with seq := .idle, errCode := .flag, done := true }) ∧
      (bufByte .uf 0 s = 0x7E#8 → bufByte .uf (l - 1) s = 0x7E#8 →
        (bufByte .uf (l - 3) s ≠ (fcs (bufSlice .uf 1 (l - 3) s)).setWidth 8 ∨
          bufByte .uf (l - 2) s ≠ (fcs (bufSlice .uf 1 (l - 3) s) >>> 8).setWidth 8 →
        exec .ax25Recv s = .next { s with seq := .idle, errCode := .fcs, done := true }))

/-- R267, R264 to R266: a 276-byte frame whose flags and FCS hold: the field errors in their order, and the outputs of a receipt. -/
def Obligations.Ax25RecvTakesAnIFrame : Prop :=
  ∀ s : State, s.ufLen = 276#9 → bufByte .uf 0 s = 0x7E#8 → bufByte .uf 275 s = 0x7E#8 →
    bufByte .uf 273 s = (fcs (bufSlice .uf 1 273 s)).setWidth 8 →
    bufByte .uf 274 s = (fcs (bufSlice .uf 1 273 s) >>> 8).setWidth 8 →
    ((bufByte .uf 15 s).getLsbD 0 = true →
      exec .ax25Recv s = .next { s with seq := .idle, errCode := .frameType, done := true }) ∧
    ((bufByte .uf 15 s).getLsbD 0 = false → bufByte .uf 17 s ≠ 0xF0#8 →
      exec .ax25Recv s = .next { s with seq := .idle, errCode := .pid, done := true }) ∧
    ((bufByte .uf 15 s).getLsbD 0 = false → bufByte .uf 17 s = 0xF0#8 →
      ∃ t, exec .ax25Recv s = .next t ∧
        t = { s with
              seq := .idle, errCode := .none, done := true, rxi := t.rxi, rxDest := t.rxDest, rxSrc := t.rxSrc,
              mem := t.mem } ∧
        t.rxi.getLsbD 0 = false ∧ t.rxi.extractLsb' 1 2 = 0#2 ∧ t.rxi.getLsbD 3 = (bufByte .uf 16 s).getLsbD 0 ∧
        t.rxi.extractLsb' 4 4 = 0#4 ∧ t.rxi.extractLsb' 8 8 = bufByte .uf 15 s ∧
        t.rxi.extractLsb' 16 8 = bufByte .uf 16 s ∧
        group7Bytes t.rxDest = bufSlice .uf 1 8 s ∧ group7Bytes t.rxSrc = bufSlice .uf 8 15 s ∧
        bufAll .cw t = bufSlice .uf 18 273 s ∧ keepsBytesOutside 0x200 255 s t)

/-- R267, R264 to R266: a 20-byte frame whose flags and FCS hold: the field errors in their order, and the outputs of a receipt; bits 7:5
of the control byte are ignored, and no buffer changes. -/
def Obligations.Ax25RecvTakesAUFrame : Prop :=
  ∀ s : State, s.ufLen = 20#9 → bufByte .uf 0 s = 0x7E#8 → bufByte .uf 19 s = 0x7E#8 →
    bufByte .uf 17 s = (fcs (bufSlice .uf 1 17 s)).setWidth 8 →
    bufByte .uf 18 s = (fcs (bufSlice .uf 1 17 s) >>> 8).setWidth 8 →
    ((bufByte .uf 15 s).extractLsb' 0 2 ≠ 3#2 →
      exec .ax25Recv s = .next { s with seq := .idle, errCode := .frameType, done := true }) ∧
    ((bufByte .uf 15 s).extractLsb' 0 2 = 3#2 → bufByte .uf 16 s ≠ 0xF0#8 →
      exec .ax25Recv s = .next { s with seq := .idle, errCode := .pid, done := true }) ∧
    ((bufByte .uf 15 s).extractLsb' 0 2 = 3#2 → bufByte .uf 16 s = 0xF0#8 → (bufByte .uf 15 s).extractLsb' 2 2 = 3#2 →
      exec .ax25Recv s = .next { s with seq := .idle, errCode := .ucmd, done := true }) ∧
    ((bufByte .uf 15 s).extractLsb' 0 2 = 3#2 → bufByte .uf 16 s = 0xF0#8 → (bufByte .uf 15 s).extractLsb' 2 2 ≠ 3#2 →
      ∃ t, exec .ax25Recv s = .next t ∧
        t = { s with
              seq := .idle, errCode := .none, done := true, rxi := t.rxi, rxDest := t.rxDest, rxSrc := t.rxSrc } ∧
        t.rxi.getLsbD 0 = true ∧ t.rxi.extractLsb' 1 2 = (bufByte .uf 15 s).extractLsb' 2 2 ∧
        t.rxi.getLsbD 3 = (bufByte .uf 15 s).getLsbD 4 ∧ t.rxi.extractLsb' 4 4 = 0#4 ∧
        t.rxi.extractLsb' 8 8 = bufByte .uf 15 s ∧ t.rxi.extractLsb' 16 8 = 0#8 ∧
        group7Bytes t.rxDest = bufSlice .uf 1 8 s ∧ group7Bytes t.rxSrc = bufSlice .uf 8 15 s)

/-- R268 (b): for every DEST_ADDR, SRC_ADDR, ICTRL and CW, AX25_RECV after AX25_FRAME_I succeeds, leaves CW unchanged, and reports an
I-frame with the two addresses. -/
def Obligations.RecvAcceptsTheBuiltIFrame : Prop :=
  ∀ s : State, ∃ t u, exec .ax25FrameI s = .next t ∧ exec .ax25Recv t = .next u ∧ u.errCode = .none ∧
    u.rxi.getLsbD 0 = false ∧ u.rxDest = s.dest ∧ u.rxSrc = s.src ∧ bufAll .cw u = bufAll .cw s

/-- R268 (c): for every UCMD in 0, 1, 2 and every PF, AX25_RECV after AX25_FRAME_U succeeds and reports a U-frame with that command and
poll/final bit. -/
def Obligations.RecvAcceptsTheBuiltUFrame : Prop :=
  ∀ (s : State) (ucmd : BitVec 2) (pf : Bool), ucmd ≠ 3#2 →
    ∃ t u, exec (.ax25FrameU ucmd pf) s = .next t ∧ exec .ax25Recv t = .next u ∧ u.errCode = .none ∧
      u.rxi.getLsbD 0 = true ∧ u.rxi.extractLsb' 1 2 = ucmd ∧ u.rxi.getLsbD 3 = pf
end

