-- ==== Sys2Proof/Laws/Word.lean ====
section
/-! SUPPORT. `strict` changes no value. -/

namespace Sys2Proof.Laws

@[simp] theorem strict_eq {w : Nat} {α : Type} (x : BitVec w) (f : BitVec w → α) : strict x f = f x := by
  unfold strict
  split <;> rename_i h
  · congr 1
    apply BitVec.eq_of_toNat_eq
    simp [h]
  · congr 1
    apply BitVec.eq_of_toNat_eq
    simp [← Nat.succ_eq_add_one, ← h]

end Sys2Proof.Laws
end

