-- ==== Sys2Proof/Laws/Bytes.lean ====
section
/-! SUPPORT. Packing and unpacking are inverse (R58, R85, R232), and how long the byte and bit sequences are. -/

namespace Sys2Proof.Laws

open Sys2Proof.Machine

/-! ### Register groups -/

@[simp] theorem wordBytes_length (w : Word) : (wordBytes w).length = 4 := rfl
@[simp] theorem group8Bytes_length (g : Group8) : (group8Bytes g).length = 8 := rfl
@[simp] theorem group7Bytes_length (g : Group7) : (group7Bytes g).length = 7 := rfl
@[simp] theorem group16Bytes_length (g : Group16) : (group16Bytes g).length = 16 := rfl

/-- R85: bit i of a little-endian word. -/
theorem leWord_getLsbD (l : List Byte) (i : Nat) :
    (leWord l).getLsbD i =
      if i < 8 then (l.getD 0 0#8).getLsbD i
      else if i < 16 then (l.getD 1 0#8).getLsbD (i - 8)
      else if i < 24 then (l.getD 2 0#8).getLsbD (i - 16)
      else (l.getD 3 0#8).getLsbD (i - 24) := by
  show BitVec.getLsbD (l.getD 3 0#8 ++ l.getD 2 0#8 ++ l.getD 1 0#8 ++ l.getD 0 0#8) i = _
  simp only [BitVec.getLsbD_append]
  by_cases h0 : i < 8
  · simp [h0]
  · by_cases h1 : i < 16
    · have : i - 8 < 8 := by omega
      simp [h0, h1, this]
    · have e1 : ¬(i - 8 < 8) := by omega
      have e2 : i - 8 - 8 = i - 16 := by omega
      by_cases h2 : i < 24
      · have : i - 16 < 8 := by omega
        simp [h0, h1, h2, e1, e2, this]
      · have : ¬(i - 16 < 8) := by omega
        have e3 : i - 16 - 8 = i - 24 := by omega
        simp [h0, h1, h2, e1, e2, e3, this]

/-- Byte k of a little-endian word is byte k of the sequence (R85). -/
theorem wordByte_leWord (l : List Byte) (k : Nat) (h : k < 4) : wordByte (leWord l) k = l.getD k 0#8 := by
  unfold wordByte
  apply BitVec.eq_of_getLsbD_eq
  intro i hi
  simp only [BitVec.getLsbD_extractLsb', hi, decide_true, Bool.true_and, leWord_getLsbD]
  have : k = 0 ∨ k = 1 ∨ k = 2 ∨ k = 3 := by omega
  rcases this with rfl | rfl | rfl | rfl
  · simp [hi]
  · have e : 8 * 1 + i - 8 = i := by omega
    have h0 : ¬(8 * 1 + i < 8) := by omega
    have h1 : 8 * 1 + i < 16 := by omega
    rw [if_neg h0, if_pos h1, e]
  · have e : 8 * 2 + i - 16 = i := by omega
    have h0 : ¬(8 * 2 + i < 8) := by omega
    have h1 : ¬(8 * 2 + i < 16) := by omega
    have h2 : 8 * 2 + i < 24 := by omega
    rw [if_neg h0, if_neg h1, if_pos h2, e]
  · have e : 8 * 3 + i - 24 = i := by omega
    have h0 : ¬(8 * 3 + i < 8) := by omega
    have h1 : ¬(8 * 3 + i < 16) := by omega
    have h2 : ¬(8 * 3 + i < 24) := by omega
    rw [if_neg h0, if_neg h1, if_neg h2, e]

theorem wordBytes_leWord (a b c d : Byte) : wordBytes (leWord [a, b, c, d]) = [a, b, c, d] := by
  simp [wordBytes, wordByte_leWord]

theorem leWord_wordBytes (w : Word) : leWord (wordBytes w) = w := by
  apply BitVec.eq_of_getLsbD_eq
  intro i hi
  simp only [leWord_getLsbD, wordBytes, wordByte, List.getD_cons_zero, List.getD_cons_succ, BitVec.getLsbD_extractLsb']
  split
  · rename_i h
    simp [h]
  · split
    · have e : 8 * 1 + (i - 8) = i := by omega
      have h8 : i - 8 < 8 := by omega
      simp only [e, h8, decide_true, Bool.true_and]
    · split
      · have e : 8 * 2 + (i - 16) = i := by omega
        have h8 : i - 16 < 8 := by omega
        simp only [e, h8, decide_true, Bool.true_and]
      · have e : 8 * 3 + (i - 24) = i := by omega
        have h8 : i - 24 < 8 := by omega
        simp only [e, h8, decide_true, Bool.true_and]

/-- A list of exactly n bytes is the list of its n entries. -/
theorem eq_of_length_16 (l : List Byte) (h : l.length = 16) :
    ∃ a0 a1 a2 a3 a4 a5 a6 a7 a8 a9 b0 b1 b2 b3 b4 b5,
      l = [a0, a1, a2, a3, a4, a5, a6, a7, a8, a9, b0, b1, b2, b3, b4, b5] := by
  match l, h with
  | [a0, a1, a2, a3, a4, a5, a6, a7, a8, a9, b0, b1, b2, b3, b4, b5], _ => exact ⟨_, _, _, _, _, _, _, _, _, _, _, _, _, _, _, _, rfl⟩

/-- R58: a 16-byte group holds the 16 bytes put into it. -/
theorem group16Bytes_group16Of (l : List Byte) (h : l.length = 16) : group16Bytes (group16Of l) = l := by
  obtain ⟨a0, a1, a2, a3, a4, a5, a6, a7, a8, a9, b0, b1, b2, b3, b4, b5, rfl⟩ := eq_of_length_16 l h
  simp [group16Bytes, group16Of, wordBytes_leWord]

theorem setWidth_24_32 (a b c : Byte) :
    ((leWord [a, b, c]).setWidth 24).setWidth 32 = leWord [a, b, c] := by
  apply BitVec.eq_of_getLsbD_eq
  intro i hi
  by_cases h : i < 24
  · simp [h, hi]
  · have h0 : ¬(i < 8) := by omega
    have h1 : ¬(i < 16) := by omega
    simp [h, h0, h1, leWord_getLsbD]

/-- R58, R45: a 7-byte group holds the 7 bytes put into it. -/
theorem group7Bytes_group7Of (l : List Byte) (h : l.length = 7) : group7Bytes (group7Of l) = l := by
  match l, h with
  | [a, b, c, d, e, f, g], _ =>
    simp only [group7Bytes, group7Of, List.take, List.drop, setWidth_24_32, wordBytes_leWord]
    simp [wordBytes, wordByte_leWord]

/-! ### Big-endian integers -/

@[simp] theorem beBytes_length {n : Nat} (k : Nat) (v : BitVec n) : (beBytes k v).length = k := by
  induction k with
  | zero => rfl
  | succ k ih => simp [beBytes, ih]

/-! ### Bit streams -/

@[simp] theorem byteBits_length (b : Byte) : (byteBits b).length = 8 := by simp [byteBits]

theorem bitsLSB_length (l : List Byte) : (bitsLSB l).length = 8 * l.length := by
  induction l with
  | nil => rfl
  | cons b bs ih =>
    simp only [bitsLSB, List.flatMap_cons, List.length_append, byteBits_length, List.length_cons] at ih ⊢
    omega

theorem byteBits_byteOfBits (b0 b1 b2 b3 b4 b5 b6 b7 : Bool) :
    byteBits (byteOfBits b0 b1 b2 b3 b4 b5 b6 b7) = [b0, b1, b2, b3, b4, b5, b6, b7] := by
  revert b0 b1 b2 b3 b4 b5 b6 b7
  decide

theorem byteOfBits_getLsbD : ∀ b : Byte,
    byteOfBits (b.getLsbD 0) (b.getLsbD 1) (b.getLsbD 2) (b.getLsbD 3) (b.getLsbD 4) (b.getLsbD 5) (b.getLsbD 6)
      (b.getLsbD 7) = b := by
  decide +kernel

theorem packLSB_byteBits_append (b : Byte) (s : List Bool) : packLSB (byteBits b ++ s) = b :: packLSB s := by
  show packLSB (b.getLsbD 0 :: b.getLsbD 1 :: b.getLsbD 2 :: b.getLsbD 3 :: b.getLsbD 4 :: b.getLsbD 5 ::
    b.getLsbD 6 :: b.getLsbD 7 :: s) = _
  rw [packLSB, byteOfBits_getLsbD]

/-- R232: packLSB undoes bitsLSB, and drops fewer than eight bits that follow (R261). -/
theorem packLSB_bitsLSB_append (l : List Byte) (s : List Bool) (h : s.length < 8) : packLSB (bitsLSB l ++ s) = l := by
  induction l with
  | nil =>
    match s, h with
    | [], _ | [_], _ | [_, _], _ | [_, _, _], _ | [_, _, _, _], _ | [_, _, _, _, _], _
    | [_, _, _, _, _, _], _ | [_, _, _, _, _, _, _], _ => rfl
  | cons b bs ih =>
    have : bitsLSB (b :: bs) ++ s = byteBits b ++ (bitsLSB bs ++ s) := by simp [bitsLSB]
    rw [this, packLSB_byteBits_append, ih]

theorem packLSB_bitsLSB (l : List Byte) : packLSB (bitsLSB l) = l := by
  simpa using packLSB_bitsLSB_append l [] (by simp)

/-- R232: bitsLSB undoes packLSB on a whole number of bytes. -/
theorem bitsLSB_packLSB : ∀ s : List Bool, s.length % 8 = 0 → bitsLSB (packLSB s) = s
  | [], _ => rfl
  | [_], h | [_, _], h | [_, _, _], h | [_, _, _, _], h | [_, _, _, _, _], h | [_, _, _, _, _, _], h
  | [_, _, _, _, _, _, _], h => by simp at h
  | b0 :: b1 :: b2 :: b3 :: b4 :: b5 :: b6 :: b7 :: rest, h => by
    have hr : rest.length % 8 = 0 := by
      simp only [List.length_cons] at h
      omega
    have := bitsLSB_packLSB rest hr
    simp only [packLSB, bitsLSB, List.flatMap_cons, byteBits_byteOfBits] at this ⊢
    simp [this]

theorem packLSB_length : ∀ s : List Bool, (packLSB s).length = s.length / 8
  | [] | [_] | [_, _] | [_, _, _] | [_, _, _, _] | [_, _, _, _, _] | [_, _, _, _, _, _] | [_, _, _, _, _, _, _] => by
    simp [packLSB]
  | b0 :: b1 :: b2 :: b3 :: b4 :: b5 :: b6 :: b7 :: rest => by
    simp only [packLSB, List.length_cons, packLSB_length rest]
    omega

end Sys2Proof.Laws
end

