-- ==== Sys2Proof/Laws/Engines.lean ====
section
/-! SUPPORT. How long the engines' results are: codewords (R146), keystreams and tags (R185, R188), frames (R220), stuffed bodies
(R234); and the small lemmas of the loops. -/

namespace Sys2Proof.Laws

open Sys2Proof.Machine

/-! ### Reed-Solomon -/

@[simp] theorem rsGenLow_length : rsGenLow.length = 32 := rfl

theorem rsShift_length (rem : List Byte) (fb : Byte) (h : rem.length = 32) : (rsShift rem fb).length = 32 := by
  simp [rsShift, polyScale, h]

theorem rsEncGo_length (msg rem : List Byte) (h : rem.length = 32) : (rsEncGo msg rem).length = 32 := by
  induction msg generalizing rem with
  | nil => simpa [rsEncGo] using h
  | cons m ms ih => simpa [rsEncGo] using ih _ (rsShift_length _ _ h)

@[simp] theorem rsParity_length (msg : List Byte) : (rsParity msg).length = 32 := by
  simp [rsParity, rsEncGo_length, rsNpar]

/-- R146: the codeword is exactly 32 bytes longer than the message. -/
@[simp] theorem rsEnc_length (msg : List Byte) : (rsEnc msg).length = msg.length + 32 := by simp [rsEnc]

@[simp] theorem syndromes_length (r : List Byte) : (syndromes r).length = 32 := by simp [syndromes, rsNpar]

theorem hornerHigh_cons (x c : Byte) (cs : List Byte) (acc : Byte) :
    hornerHigh x (c :: cs) acc = hornerHigh x cs (gfMul acc x ^^^ c) := by simp [hornerHigh]

theorem correctAt_length (om lam : List Byte) (ps : List Nat) (r c : List Byte) (h : correctAt om lam ps r = some c) :
    c.length = r.length := by
  induction ps generalizing r with
  | nil => simp only [correctAt, Option.some.injEq] at h; rw [h]
  | cons p ps ih =>
    simp only [correctAt] at h
    split at h
    · simp at h
    · simpa using ih _ h

/-! ### Zero symbols: what a leading run of them does to the loops of the code -/

theorem gfXtime_zero : gfXtime 0#8 = 0#8 := by decide

theorem gfMulGo_zero (n : Nat) (b : Byte) : gfMulGo n 0#8 b 0#8 = 0#8 := by
  induction n generalizing b with
  | zero => rfl
  | succ n ih => simp [gfMulGo, gfXtime_zero, ih]

/-- R141: a product with 0 is 0. -/
@[simp] theorem gfMul_zero_left (b : Byte) : gfMul 0#8 b = 0#8 := gfMulGo_zero 8 b

/-- R149: Horner's rule passes over leading zero symbols. -/
theorem hornerHigh_zeros (x : Byte) (n : Nat) (t : List Byte) :
    hornerHigh x (List.replicate n 0#8 ++ t) 0#8 = hornerHigh x t 0#8 := by
  induction n with
  | zero => rfl
  | succ n ih => simpa [List.replicate_succ, hornerHigh_cons] using ih

/-- R149: leading zero symbols add nothing to the syndromes. -/
theorem syndromes_zeros (n : Nat) (t : List Byte) : syndromes (List.replicate n 0#8 ++ t) = syndromes t := by
  simp [syndromes, hornerHigh_zeros]

/-- R149: the syndromes of the zero word are 0. -/
theorem syndromes_zero_word (n : Nat) : syndromes (List.replicate n 0#8) = List.replicate 32 0#8 := by
  have h := syndromes_zeros n []
  rw [List.append_nil] at h
  rw [h]
  decide

/-- R148: the zero word decodes to the zero message with no error. -/
theorem rsDec_zero_word : rsDec (List.replicate 255 0#8) = some (List.replicate 223 0#8, 0) := by
  simp only [rsDec, syndromes_zero_word]
  decide +kernel

/-- R146: leading zero symbols leave the shift register clear. -/
theorem rsEncGo_zeros (n : Nat) (t : List Byte) :
    rsEncGo (List.replicate n 0#8 ++ t) (List.replicate 32 0#8) = rsEncGo t (List.replicate 32 0#8) := by
  have hz : rsShift (List.replicate 32 0#8) 0#8 = List.replicate 32 0#8 := by decide
  induction n with
  | zero => rfl
  | succ n ih =>
    have hfb : (0#8 : Byte) ^^^ (List.replicate 32 0#8).getD 31 0#8 = 0#8 := by decide
    rw [List.replicate_succ, List.cons_append, rsEncGo, strict_eq, hfb, hz]
    exact ih

/-! ### AES -/

@[simp] theorem aesBytes_length (s : AesState) : (aesBytes s).length = 16 := rfl

/-- R180: a block of 16 bytes comes out. -/
@[simp] theorem aesEnc_length (k x : List Byte) : (aesEnc k x).length = 16 := by simp [aesEnc, roundKeys]

theorem keystream_length (k : List Byte) (inc : BitVec 128 → BitVec 128) (n : Nat) (t : BitVec 128) :
    (keystream k inc n t).length = 16 * n := by
  induction n generalizing t with
  | zero => rfl
  | succ n ih => simp [keystream, ih]; omega

/-- R185, R186: the data keep their length. -/
@[simp] theorem ctrWith_length (inc : BitVec 128 → BitVec 128) (k : List Byte) (t : BitVec 128) (d : List Byte) :
    (ctrWith inc k t d).length = d.length := by
  simp only [ctrWith, xorBytes, List.length_zipWith, keystream_length]
  omega

@[simp] theorem gcmTag_length (k iv c : List Byte) : (gcmTag k iv c).length = 16 := by
  simp [gcmTag, xorBytes]

/-! ### Frames -/

@[simp] theorem addrField_length (cs : List Byte) (len : Nat) (ssid : BitVec 4) (c e : Bool) :
    (addrField cs len ssid c e).length = 7 := by simp [addrField]

@[simp] theorem fcsBytes_length (d : List Byte) : (fcsBytes d).length = 2 := rfl

/-- R220: flags and FCS add four bytes. -/
@[simp] theorem frameOf_length (h : List Byte) : (frameOf h).length = h.length + 4 := by simp [frameOf]

theorem iFrame_length (dest src : List Byte) (ns : BitVec 7) (p : Bool) (nr : BitVec 7) (info : List Byte) :
    (iFrame dest src ns p nr info).length = dest.length + src.length + info.length + 7 := by
  simp [iFrame]; omega

theorem uFrame_length (dest src : List Byte) (ucmd : BitVec 2) (pf : Bool) :
    (uFrame dest src ucmd pf).length = dest.length + src.length + 6 := by
  simp [uFrame]; omega

/-! ### Bit stuffing -/

/-- R233: the stuffed bits are the body's bits and ns more. -/
theorem stuffBits_length (ones : Nat) (s : List Bool) : (stuffBits ones s).length = s.length + stuffCount ones s := by
  induction s generalizing ones with
  | nil => simp [stuffBits, stuffCount]
  | cons b bs ih =>
    cases b
    · simp [stuffBits, stuffCount, ih]; omega
    · simp only [stuffBits, stuffCount]
      split
      · simp [ih]; omega
      · simp [ih]; omega

/-- R234: padding ends at a byte boundary. -/
theorem padBits_length (s : List Bool) : (padBits s).length = 8 * ((s.length + 7) / 8) := by
  simp only [padBits, List.length_append, List.length_replicate]
  omega

end Sys2Proof.Laws
end

