-- ==== Sys2Proof/Laws/Memory.lean ====
section
/-! SUPPORT. The laws of the memory: a read after a write (R85, R88), the canonical form (every write at valid offsets keeps it), and
the buffers as byte sequences (R10). -/

namespace Sys2Proof.Laws

open Sys2Proof.Machine

/-! ### Reading a list of cells -/

theorem readByte_append (m1 m2 : List Host.Cell) (a : Nat) :
    readByte (m1 ++ m2) a = if (∃ c ∈ m1, c.1 = a) then readByte m1 a else readByte m2 a := by
  induction m1 with
  | nil => simp
  | cons c rest ih =>
    obtain ⟨b, v⟩ := c
    by_cases h : b = a
    · simp [readByte, h]
    · simp [readByte, h, ih]

theorem readByte_of_absent (m : List Host.Cell) (a : Nat) (h : ∀ c ∈ m, c.1 ≠ a) : readByte m a = resetByte := by
  induction m with
  | nil => rfl
  | cons c rest ih =>
    obtain ⟨b, v⟩ := c
    have hb : b ≠ a := h (b, v) (by simp)
    simp [readByte, hb, ih fun c hc => h c (by simp [hc])]

theorem readByte_filter (m : List Host.Cell) (p : Nat → Bool) (a : Nat) :
    readByte (m.filter fun c => p c.1) a = if p a then readByte m a else resetByte := by
  induction m with
  | nil => simp [readByte]
  | cons c rest ih =>
    obtain ⟨b, v⟩ := c
    by_cases hb : b = a
    · subst hb
      by_cases hp : p b
      · simp [List.filter, hp, readByte]
      · simp [List.filter, hp, ih]
    · by_cases hp : p b
      · simp [List.filter, hp, readByte, hb, ih]
      · simp [List.filter, hp, readByte, hb, ih]

theorem cellsOf_offset (l : List Byte) (a : Nat) : ∀ c ∈ cellsOf a l, a ≤ c.1 ∧ c.1 < a + l.length := by
  induction l generalizing a with
  | nil => simp [cellsOf]
  | cons v rest ih =>
    intro c hc
    simp only [cellsOf] at hc
    split at hc
    · have := ih (a + 1) c hc
      simp only [List.length_cons]
      omega
    · rcases List.mem_cons.mp hc with rfl | hc
      · simp
      · have := ih (a + 1) c hc
        simp only [List.length_cons]
        omega

theorem readByte_cellsOf (l : List Byte) (a x : Nat) (h1 : a ≤ x) (h2 : x < a + l.length) :
    readByte (cellsOf a l) x = l.getD (x - a) resetByte := by
  induction l generalizing a with
  | nil => simp at h2; omega
  | cons v rest ih =>
    simp only [List.length_cons] at h2
    rcases Nat.eq_or_lt_of_le h1 with rfl | hlt
    · by_cases hv : v = resetByte
      · simp only [cellsOf, hv, if_true, Nat.sub_self]
        exact readByte_of_absent _ _ fun c hc => by have := cellsOf_offset rest (a + 1) c hc; omega
      · simp [cellsOf, hv, readByte]
    · have hx : x - a = (x - (a + 1)) + 1 := by omega
      rw [hx]
      by_cases hv : v = resetByte
      · simpa [cellsOf, hv] using ih (a + 1) hlt (by omega)
      · have hne : a ≠ x := by omega
        simpa [cellsOf, hv, readByte, hne] using ih (a + 1) hlt (by omega)

/-- The one law of a write: the bytes written read back, every other offset reads as before (R85, R88). -/
theorem readByte_writeBytes (m : List Host.Cell) (a : Nat) (l : List Byte) (x : Nat) :
    readByte (writeBytes m a l) x = if a ≤ x ∧ x < a + l.length then l.getD (x - a) resetByte else readByte m x := by
  have hlow : readByte (m.filter fun c => c.1 < a) x = if x < a then readByte m x else resetByte := by
    simpa using readByte_filter m (fun b => decide (b < a)) x
  have hhigh : readByte (m.filter fun c => a + l.length ≤ c.1) x =
      if a + l.length ≤ x then readByte m x else resetByte := by
    simpa using readByte_filter m (fun b => decide (a + l.length ≤ b)) x
  unfold writeBytes
  rw [List.append_assoc, readByte_append]
  split
  · rename_i h
    obtain ⟨c, hc, rfl⟩ := h
    have hc' : c.1 < a := by simpa using (List.mem_filter.mp hc).2
    have : ¬(a ≤ c.1 ∧ c.1 < a + l.length) := by omega
    rw [hlow, if_pos hc', if_neg this]
  · rename_i hno
    rw [readByte_append]
    by_cases hin : a ≤ x ∧ x < a + l.length
    · rw [if_pos hin]
      by_cases hmem : ∃ c ∈ cellsOf a l, c.1 = x
      · rw [if_pos hmem, readByte_cellsOf l a x hin.1 hin.2]
      · rw [if_neg hmem, hhigh, if_neg (by omega), ← readByte_cellsOf l a x hin.1 hin.2]
        exact (readByte_of_absent _ _ fun c hc he => hmem ⟨c, hc, he⟩).symm
    · rw [if_neg hin, if_neg (by
        rintro ⟨c, hc, rfl⟩
        exact hin (cellsOf_offset l a c hc))]
      by_cases hx : a + l.length ≤ x
      · rw [hhigh, if_pos hx]
      · have hxa : x < a := by omega
        rw [hhigh, if_neg hx]
        by_cases hm : ∃ c ∈ m, c.1 = x
        · obtain ⟨c, hc, rfl⟩ := hm
          exact absurd ⟨c, List.mem_filter.mpr ⟨hc, by simpa using hxa⟩, rfl⟩ hno
        · exact (readByte_of_absent _ _ fun c hc he => hm ⟨c, hc, he⟩).symm

theorem readByte_writeBytes_outside (m : List Host.Cell) (a : Nat) (l : List Byte) (x : Nat)
    (h : ¬(a ≤ x ∧ x < a + l.length)) : readByte (writeBytes m a l) x = readByte m x := by
  rw [readByte_writeBytes, if_neg h]

/-! ### Reading a run of bytes -/

@[simp] theorem readBytes_length (m : List Host.Cell) (a n : Nat) : (readBytes m a n).length = n := by
  induction n generalizing a with
  | zero => rfl
  | succ n ih => simp [readBytes, ih]

theorem readBytes_getD (m : List Host.Cell) (a n i : Nat) (h : i < n) (d : Byte) :
    (readBytes m a n).getD i d = readByte m (a + i) := by
  induction n generalizing a i with
  | zero => omega
  | succ n ih =>
    cases i with
    | zero => simp [readBytes]
    | succ i =>
      have := ih (a + 1) i (by omega)
      simpa [readBytes, Nat.add_assoc, Nat.add_comm 1 i] using this

theorem readBytes_congr (m m' : List Host.Cell) (a n : Nat) (h : ∀ i, i < n → readByte m (a + i) = readByte m' (a + i)) :
    readBytes m a n = readBytes m' a n := by
  induction n generalizing a with
  | zero => rfl
  | succ n ih =>
    simp only [readBytes]
    congr 1
    · simpa using h 0 (by omega)
    · exact ih (a + 1) fun i hi => by simpa [Nat.add_assoc, Nat.add_comm 1 i] using h (i + 1) (by omega)

theorem readBytes_eq_of_getD (m : List Host.Cell) (a : Nat) (l : List Byte) (d : Byte)
    (h : ∀ i, i < l.length → readByte m (a + i) = l.getD i d) : readBytes m a l.length = l := by
  apply List.ext_getElem
  · simp
  · intro i h1 h2
    have hr := readBytes_getD m a l.length i h2 d
    rw [List.getD_eq_getElem _ _ h1] at hr
    rw [hr, h i h2, List.getD_eq_getElem _ _ h2]

/-- What was written is read back (R85, R88). -/
theorem readBytes_writeBytes (m : List Host.Cell) (a : Nat) (l : List Byte) :
    readBytes (writeBytes m a l) a l.length = l :=
  readBytes_eq_of_getD _ _ _ resetByte fun i hi => by
    rw [readByte_writeBytes, if_pos ⟨by omega, by omega⟩]
    congr 1
    omega

/-- A run of bytes that does not meet the bytes written reads as before. -/
theorem readBytes_writeBytes_disjoint (m : List Host.Cell) (a b n : Nat) (l : List Byte)
    (h : b + n ≤ a ∨ a + l.length ≤ b) : readBytes (writeBytes m a l) b n = readBytes m b n :=
  readBytes_congr _ _ _ _ fun i hi => readByte_writeBytes_outside _ _ _ _ (by omega)

/-! ### The canonical form -/

/-- The canonical form, cell by cell: rising offsets, valid ones, no reset byte. -/
theorem memWf_iff (m : List Host.Cell) :
    memWf m = true ↔ m.Pairwise (fun c d => c.1 < d.1) ∧ ∀ c ∈ m, validOffset c.1 = true ∧ c.2 ≠ resetByte := by
  induction m with
  | nil => simp [memWf]
  | cons c rest ih =>
    obtain ⟨a, v⟩ := c
    cases rest with
    | nil => simp [memWf]
    | cons d rest =>
      obtain ⟨b, w⟩ := d
      simp only [memWf, Bool.and_eq_true, bne_iff_ne, ne_eq, decide_eq_true_eq, ih]
      constructor
      · rintro ⟨⟨⟨h1, h2⟩, h3⟩, h4, h5⟩
        refine ⟨List.pairwise_cons.mpr ⟨?_, h4⟩, ?_⟩
        · intro c hc
          rcases List.mem_cons.mp hc with rfl | hc
          · exact h3
          · exact Nat.lt_trans h3 ((List.pairwise_cons.mp h4).1 c hc)
        · intro c hc
          rcases List.mem_cons.mp hc with rfl | hc
          · exact ⟨h1, h2⟩
          · exact h5 c hc
      · rintro ⟨h1, h2⟩
        have h3 := List.pairwise_cons.mp h1
        exact ⟨⟨h2 (a, v) (by simp), h3.1 (b, w) (by simp)⟩, h3.2, fun c hc => h2 c (List.mem_cons_of_mem _ hc)⟩

theorem cellsOf_pairwise (l : List Byte) (a : Nat) : (cellsOf a l).Pairwise (fun c d => c.1 < d.1) := by
  induction l generalizing a with
  | nil => simp [cellsOf]
  | cons v rest ih =>
    simp only [cellsOf]
    split
    · exact ih (a + 1)
    · exact List.pairwise_cons.mpr ⟨fun c hc => by have := cellsOf_offset rest (a + 1) c hc; simp; omega, ih (a + 1)⟩

theorem cellsOf_ne_resetByte (l : List Byte) (a : Nat) : ∀ c ∈ cellsOf a l, c.2 ≠ resetByte := by
  induction l generalizing a with
  | nil => simp [cellsOf]
  | cons v rest ih =>
    simp only [cellsOf]
    split
    · exact ih (a + 1)
    · rename_i hv
      intro c hc
      rcases List.mem_cons.mp hc with rfl | hc
      · exact hv
      · exact ih (a + 1) c hc

/-- A write at valid offsets keeps the canonical form. -/
theorem memWf_writeBytes (m : List Host.Cell) (a : Nat) (l : List Byte) (hm : memWf m = true)
    (hv : ∀ x, a ≤ x → x < a + l.length → validOffset x = true) : memWf (writeBytes m a l) = true := by
  obtain ⟨hp, hc⟩ := (memWf_iff m).mp hm
  rw [memWf_iff]
  unfold writeBytes
  constructor
  · rw [List.append_assoc, List.pairwise_append, List.pairwise_append]
    refine ⟨hp.filter _, ⟨cellsOf_pairwise l a, hp.filter _, ?_⟩, ?_⟩
    · intro c hc d hd
      have := cellsOf_offset l a c hc
      have hd' : a + l.length ≤ d.1 := by simpa using (List.mem_filter.mp hd).2
      omega
    · intro c hc d hd
      have hc' : c.1 < a := by simpa using (List.mem_filter.mp hc).2
      rcases List.mem_append.mp hd with hd | hd
      · have := cellsOf_offset l a d hd
        omega
      · have hd' : a + l.length ≤ d.1 := by simpa using (List.mem_filter.mp hd).2
        omega
  · intro c hmem
    rcases List.mem_append.mp hmem with h | h
    · rcases List.mem_append.mp h with h | h
      · exact hc c (List.mem_filter.mp h).1
      · have := cellsOf_offset l a c h
        exact ⟨hv c.1 this.1 this.2, cellsOf_ne_resetByte l a c h⟩
    · exact hc c (List.mem_filter.mp h).1

/-- The valid bytes of a buffer are valid offsets. -/
theorem validOffset_of_bufHolds (b : Buffer) (a n x : Nat) (h : bufHolds a n b = true) (h1 : a ≤ x) (h2 : x < a + n) :
    validOffset x = true := by
  simp only [validOffset, List.any_eq_true]
  refine ⟨b, by cases b <;> simp [allBuffers], ?_⟩
  simp only [bufHolds, Bool.and_eq_true, decide_eq_true_eq] at h ⊢
  omega

/-- A write of n bytes inside one buffer keeps the canonical form. -/
theorem memWf_writeBytes_inBuffer (m : List Host.Cell) (b : Buffer) (a : Nat) (l : List Byte) (hm : memWf m = true)
    (h : bufHolds a l.length b = true) : memWf (writeBytes m a l) = true :=
  memWf_writeBytes m a l hm fun x h1 h2 => validOffset_of_bufHolds b a l.length x h h1 h2

/-! ### Buffers -/

theorem bufByte_eq_getD_bufAll (b : Buffer) (i : Nat) (s : State) (h : i < bufCap b) (d : Byte) :
    (bufAll b s).getD i d = bufByte b i s := readBytes_getD _ _ _ _ h d

@[simp] theorem bufAll_length (b : Buffer) (s : State) : (bufAll b s).length = bufCap b := readBytes_length _ _ _

@[simp] theorem bufSlice_length (b : Buffer) (i j : Nat) (s : State) : (bufSlice b i j s).length = j - i :=
  readBytes_length _ _ _

/-- What a store into a buffer leaves at every offset of memory. -/
theorem readByte_bufStore (b : Buffer) (l : List Byte) (s : State) (x : Nat) :
    readByte (bufStore b l s).mem x =
      if bufBase b ≤ x ∧ x < bufBase b + l.length then l.getD (x - bufBase b) resetByte else readByte s.mem x :=
  readByte_writeBytes _ _ _ _

/-- A store of a whole buffer is read back whole. -/
theorem bufAll_bufStore (b : Buffer) (l : List Byte) (s : State) (h : l.length = bufCap b) :
    bufAll b (bufStore b l s) = l := by
  unfold bufAll bufStore
  rw [← h]
  exact readBytes_writeBytes _ _ _

/-- A store at the head of a buffer is read back there. -/
theorem bufSlice_bufStore (b : Buffer) (l : List Byte) (s : State) : bufSlice b 0 l.length (bufStore b l s) = l := by
  unfold bufSlice bufStore
  simpa using readBytes_writeBytes s.mem (bufBase b) l

/-- A store of at most a buffer's capacity keeps the canonical form. -/
theorem memWf_bufStore (b : Buffer) (l : List Byte) (s : State) (hm : memWf s.mem = true) (h : l.length ≤ bufCap b) :
    memWf (bufStore b l s).mem = true :=
  memWf_writeBytes_inBuffer _ b _ _ hm (by simp [bufHolds, h])

/-- Two buffers do not overlap (R32): a store in one leaves the slices of another. -/
theorem bufSlice_bufStore_other (b c : Buffer) (l : List Byte) (s : State) (i j : Nat) (hne : b ≠ c)
    (hl : l.length ≤ bufCap b) (hj : j ≤ bufCap c) : bufSlice c i j (bufStore b l s) = bufSlice c i j s := by
  unfold bufSlice bufStore
  by_cases hij : i < j
  · apply readBytes_writeBytes_disjoint
    cases b <;> cases c <;> simp [bufBase, bufCap] at * <;> omega
  · have : j - i = 0 := by omega
    simp [this, readBytes]

end Sys2Proof.Laws
end

