-- ==== Sys2Proof/Laws/State.lean ====
section
/-! SUPPORT. One lemma per field of State per named update: what the update leaves in the field. No later proof unfolds a record
update. -/

namespace Sys2Proof.Laws

open Sys2Proof.Machine

/-! ### finish -/

@[simp] theorem finish_seq (c : ErrCode) (s : State) : (finish c s).seq = .idle := rfl
@[simp] theorem finish_cur (c : ErrCode) (s : State) : (finish c s).cur = s.cur := rfl
@[simp] theorem finish_irqEn (c : ErrCode) (s : State) : (finish c s).irqEn = s.irqEn := rfl
@[simp] theorem finish_done (c : ErrCode) (s : State) : (finish c s).done = true := rfl
@[simp] theorem finish_accErr (c : ErrCode) (s : State) : (finish c s).accErr = s.accErr := rfl
@[simp] theorem finish_errCode (c : ErrCode) (s : State) : (finish c s).errCode = c := rfl
@[simp] theorem finish_nCorr (c : ErrCode) (s : State) : (finish c s).nCorr = s.nCorr := rfl
@[simp] theorem finish_rsReady (c : ErrCode) (s : State) : (finish c s).rsReady = s.rsReady := rfl
@[simp] theorem finish_keyValid (c : ErrCode) (s : State) : (finish c s).keyValid = s.keyValid := rfl
@[simp] theorem finish_cs (c : ErrCode) (s : State) : (finish c s).cs = s.cs := rfl
@[simp] theorem finish_addrCfg (c : ErrCode) (s : State) : (finish c s).addrCfg = s.addrCfg := rfl
@[simp] theorem finish_dest (c : ErrCode) (s : State) : (finish c s).dest = s.dest := rfl
@[simp] theorem finish_src (c : ErrCode) (s : State) : (finish c s).src = s.src := rfl
@[simp] theorem finish_ictrl (c : ErrCode) (s : State) : (finish c s).ictrl = s.ictrl := rfl
@[simp] theorem finish_ufLen (c : ErrCode) (s : State) : (finish c s).ufLen = s.ufLen := rfl
@[simp] theorem finish_txLen (c : ErrCode) (s : State) : (finish c s).txLen = s.txLen := rfl
@[simp] theorem finish_txLimit (c : ErrCode) (s : State) : (finish c s).txLimit = s.txLimit := rfl
@[simp] theorem finish_rxLen (c : ErrCode) (s : State) : (finish c s).rxLen = s.rxLen := rfl
@[simp] theorem finish_aesLen (c : ErrCode) (s : State) : (finish c s).aesLen = s.aesLen := rfl
@[simp] theorem finish_keyIn (c : ErrCode) (s : State) : (finish c s).keyIn = s.keyIn := rfl
@[simp] theorem finish_iv (c : ErrCode) (s : State) : (finish c s).iv = s.iv := rfl
@[simp] theorem finish_tag (c : ErrCode) (s : State) : (finish c s).tag = s.tag := rfl
@[simp] theorem finish_rxi (c : ErrCode) (s : State) : (finish c s).rxi = s.rxi := rfl
@[simp] theorem finish_rxDest (c : ErrCode) (s : State) : (finish c s).rxDest = s.rxDest := rfl
@[simp] theorem finish_rxSrc (c : ErrCode) (s : State) : (finish c s).rxSrc = s.rxSrc := rfl
@[simp] theorem finish_keyState (c : ErrCode) (s : State) : (finish c s).keyState = s.keyState := rfl
@[simp] theorem finish_mem (c : ErrCode) (s : State) : (finish c s).mem = s.mem := rfl
@[simp] theorem finish_latLeft (c : ErrCode) (s : State) : (finish c s).latLeft = s.latLeft := rfl
@[simp] theorem finish_lats (c : ErrCode) (s : State) : (finish c s).lats = s.lats := rfl
@[simp] theorem finish_host (c : ErrCode) (s : State) : (finish c s).host = s.host := rfl
@[simp] theorem finish_readLog (c : ErrCode) (s : State) : (finish c s).readLog = s.readLog := rfl

/-! ### setAccErr -/

@[simp] theorem setAccErr_seq (s : State) : (setAccErr s).seq = s.seq := rfl
@[simp] theorem setAccErr_cur (s : State) : (setAccErr s).cur = s.cur := rfl
@[simp] theorem setAccErr_irqEn (s : State) : (setAccErr s).irqEn = s.irqEn := rfl
@[simp] theorem setAccErr_done (s : State) : (setAccErr s).done = s.done := rfl
@[simp] theorem setAccErr_accErr (s : State) : (setAccErr s).accErr = true := rfl
@[simp] theorem setAccErr_errCode (s : State) : (setAccErr s).errCode = s.errCode := rfl
@[simp] theorem setAccErr_nCorr (s : State) : (setAccErr s).nCorr = s.nCorr := rfl
@[simp] theorem setAccErr_rsReady (s : State) : (setAccErr s).rsReady = s.rsReady := rfl
@[simp] theorem setAccErr_keyValid (s : State) : (setAccErr s).keyValid = s.keyValid := rfl
@[simp] theorem setAccErr_cs (s : State) : (setAccErr s).cs = s.cs := rfl
@[simp] theorem setAccErr_addrCfg (s : State) : (setAccErr s).addrCfg = s.addrCfg := rfl
@[simp] theorem setAccErr_dest (s : State) : (setAccErr s).dest = s.dest := rfl
@[simp] theorem setAccErr_src (s : State) : (setAccErr s).src = s.src := rfl
@[simp] theorem setAccErr_ictrl (s : State) : (setAccErr s).ictrl = s.ictrl := rfl
@[simp] theorem setAccErr_ufLen (s : State) : (setAccErr s).ufLen = s.ufLen := rfl
@[simp] theorem setAccErr_txLen (s : State) : (setAccErr s).txLen = s.txLen := rfl
@[simp] theorem setAccErr_txLimit (s : State) : (setAccErr s).txLimit = s.txLimit := rfl
@[simp] theorem setAccErr_rxLen (s : State) : (setAccErr s).rxLen = s.rxLen := rfl
@[simp] theorem setAccErr_aesLen (s : State) : (setAccErr s).aesLen = s.aesLen := rfl
@[simp] theorem setAccErr_keyIn (s : State) : (setAccErr s).keyIn = s.keyIn := rfl
@[simp] theorem setAccErr_iv (s : State) : (setAccErr s).iv = s.iv := rfl
@[simp] theorem setAccErr_tag (s : State) : (setAccErr s).tag = s.tag := rfl
@[simp] theorem setAccErr_rxi (s : State) : (setAccErr s).rxi = s.rxi := rfl
@[simp] theorem setAccErr_rxDest (s : State) : (setAccErr s).rxDest = s.rxDest := rfl
@[simp] theorem setAccErr_rxSrc (s : State) : (setAccErr s).rxSrc = s.rxSrc := rfl
@[simp] theorem setAccErr_keyState (s : State) : (setAccErr s).keyState = s.keyState := rfl
@[simp] theorem setAccErr_mem (s : State) : (setAccErr s).mem = s.mem := rfl
@[simp] theorem setAccErr_latLeft (s : State) : (setAccErr s).latLeft = s.latLeft := rfl
@[simp] theorem setAccErr_lats (s : State) : (setAccErr s).lats = s.lats := rfl
@[simp] theorem setAccErr_host (s : State) : (setAccErr s).host = s.host := rfl
@[simp] theorem setAccErr_readLog (s : State) : (setAccErr s).readLog = s.readLog := rfl

/-! ### writeStatus -/

@[simp] theorem writeStatus_seq (v : Word) (s : State) : (writeStatus v s).seq = s.seq := rfl
@[simp] theorem writeStatus_cur (v : Word) (s : State) : (writeStatus v s).cur = s.cur := rfl
@[simp] theorem writeStatus_irqEn (v : Word) (s : State) : (writeStatus v s).irqEn = s.irqEn := rfl
@[simp] theorem writeStatus_done (v : Word) (s : State) : (writeStatus v s).done = (s.done && !v.getLsbD 1) := rfl
@[simp] theorem writeStatus_accErr (v : Word) (s : State) : (writeStatus v s).accErr = (s.accErr && !v.getLsbD 2) := rfl
@[simp] theorem writeStatus_errCode (v : Word) (s : State) : (writeStatus v s).errCode = s.errCode := rfl
@[simp] theorem writeStatus_nCorr (v : Word) (s : State) : (writeStatus v s).nCorr = s.nCorr := rfl
@[simp] theorem writeStatus_rsReady (v : Word) (s : State) : (writeStatus v s).rsReady = s.rsReady := rfl
@[simp] theorem writeStatus_keyValid (v : Word) (s : State) : (writeStatus v s).keyValid = s.keyValid := rfl
@[simp] theorem writeStatus_cs (v : Word) (s : State) : (writeStatus v s).cs = s.cs := rfl
@[simp] theorem writeStatus_addrCfg (v : Word) (s : State) : (writeStatus v s).addrCfg = s.addrCfg := rfl
@[simp] theorem writeStatus_dest (v : Word) (s : State) : (writeStatus v s).dest = s.dest := rfl
@[simp] theorem writeStatus_src (v : Word) (s : State) : (writeStatus v s).src = s.src := rfl
@[simp] theorem writeStatus_ictrl (v : Word) (s : State) : (writeStatus v s).ictrl = s.ictrl := rfl
@[simp] theorem writeStatus_ufLen (v : Word) (s : State) : (writeStatus v s).ufLen = s.ufLen := rfl
@[simp] theorem writeStatus_txLen (v : Word) (s : State) : (writeStatus v s).txLen = s.txLen := rfl
@[simp] theorem writeStatus_txLimit (v : Word) (s : State) : (writeStatus v s).txLimit = s.txLimit := rfl
@[simp] theorem writeStatus_rxLen (v : Word) (s : State) : (writeStatus v s).rxLen = s.rxLen := rfl
@[simp] theorem writeStatus_aesLen (v : Word) (s : State) : (writeStatus v s).aesLen = s.aesLen := rfl
@[simp] theorem writeStatus_keyIn (v : Word) (s : State) : (writeStatus v s).keyIn = s.keyIn := rfl
@[simp] theorem writeStatus_iv (v : Word) (s : State) : (writeStatus v s).iv = s.iv := rfl
@[simp] theorem writeStatus_tag (v : Word) (s : State) : (writeStatus v s).tag = s.tag := rfl
@[simp] theorem writeStatus_rxi (v : Word) (s : State) : (writeStatus v s).rxi = s.rxi := rfl
@[simp] theorem writeStatus_rxDest (v : Word) (s : State) : (writeStatus v s).rxDest = s.rxDest := rfl
@[simp] theorem writeStatus_rxSrc (v : Word) (s : State) : (writeStatus v s).rxSrc = s.rxSrc := rfl
@[simp] theorem writeStatus_keyState (v : Word) (s : State) : (writeStatus v s).keyState = s.keyState := rfl
@[simp] theorem writeStatus_mem (v : Word) (s : State) : (writeStatus v s).mem = s.mem := rfl
@[simp] theorem writeStatus_latLeft (v : Word) (s : State) : (writeStatus v s).latLeft = s.latLeft := rfl
@[simp] theorem writeStatus_lats (v : Word) (s : State) : (writeStatus v s).lats = s.lats := rfl
@[simp] theorem writeStatus_host (v : Word) (s : State) : (writeStatus v s).host = s.host := rfl
@[simp] theorem writeStatus_readLog (v : Word) (s : State) : (writeStatus v s).readLog = s.readLog := rfl

/-! ### accept -/

@[simp] theorem accept_seq (w : Word) (s : State) : (accept w s).seq = .busy := rfl
@[simp] theorem accept_cur (w : Word) (s : State) : (accept w s).cur = w := rfl
@[simp] theorem accept_irqEn (w : Word) (s : State) : (accept w s).irqEn = s.irqEn := rfl
@[simp] theorem accept_done (w : Word) (s : State) : (accept w s).done = false := rfl
@[simp] theorem accept_accErr (w : Word) (s : State) : (accept w s).accErr = s.accErr := rfl
@[simp] theorem accept_errCode (w : Word) (s : State) : (accept w s).errCode = .none := rfl
@[simp] theorem accept_nCorr (w : Word) (s : State) : (accept w s).nCorr = 0#5 := rfl
@[simp] theorem accept_rsReady (w : Word) (s : State) : (accept w s).rsReady = s.rsReady := rfl
@[simp] theorem accept_keyValid (w : Word) (s : State) : (accept w s).keyValid = s.keyValid := rfl
@[simp] theorem accept_cs (w : Word) (s : State) : (accept w s).cs = s.cs := rfl
@[simp] theorem accept_addrCfg (w : Word) (s : State) : (accept w s).addrCfg = s.addrCfg := rfl
@[simp] theorem accept_dest (w : Word) (s : State) : (accept w s).dest = s.dest := rfl
@[simp] theorem accept_src (w : Word) (s : State) : (accept w s).src = s.src := rfl
@[simp] theorem accept_ictrl (w : Word) (s : State) : (accept w s).ictrl = s.ictrl := rfl
@[simp] theorem accept_ufLen (w : Word) (s : State) : (accept w s).ufLen = s.ufLen := rfl
@[simp] theorem accept_txLen (w : Word) (s : State) : (accept w s).txLen = s.txLen := rfl
@[simp] theorem accept_txLimit (w : Word) (s : State) : (accept w s).txLimit = s.txLimit := rfl
@[simp] theorem accept_rxLen (w : Word) (s : State) : (accept w s).rxLen = s.rxLen := rfl
@[simp] theorem accept_aesLen (w : Word) (s : State) : (accept w s).aesLen = s.aesLen := rfl
@[simp] theorem accept_keyIn (w : Word) (s : State) : (accept w s).keyIn = s.keyIn := rfl
@[simp] theorem accept_iv (w : Word) (s : State) : (accept w s).iv = s.iv := rfl
@[simp] theorem accept_tag (w : Word) (s : State) : (accept w s).tag = s.tag := rfl
@[simp] theorem accept_rxi (w : Word) (s : State) : (accept w s).rxi = s.rxi := rfl
@[simp] theorem accept_rxDest (w : Word) (s : State) : (accept w s).rxDest = s.rxDest := rfl
@[simp] theorem accept_rxSrc (w : Word) (s : State) : (accept w s).rxSrc = s.rxSrc := rfl
@[simp] theorem accept_keyState (w : Word) (s : State) : (accept w s).keyState = s.keyState := rfl
@[simp] theorem accept_mem (w : Word) (s : State) : (accept w s).mem = s.mem := rfl
@[simp] theorem accept_latLeft (w : Word) (s : State) : (accept w s).latLeft = nextLat w s := rfl
@[simp] theorem accept_lats (w : Word) (s : State) : (accept w s).lats = s.lats.tail := rfl
@[simp] theorem accept_host (w : Word) (s : State) : (accept w s).host = s.host := rfl
@[simp] theorem accept_readLog (w : Word) (s : State) : (accept w s).readLog = s.readLog := rfl

/-! ### bufStore -/

@[simp] theorem bufStore_seq (b : Buffer) (l : List Byte) (s : State) : (bufStore b l s).seq = s.seq := rfl
@[simp] theorem bufStore_cur (b : Buffer) (l : List Byte) (s : State) : (bufStore b l s).cur = s.cur := rfl
@[simp] theorem bufStore_irqEn (b : Buffer) (l : List Byte) (s : State) : (bufStore b l s).irqEn = s.irqEn := rfl
@[simp] theorem bufStore_done (b : Buffer) (l : List Byte) (s : State) : (bufStore b l s).done = s.done := rfl
@[simp] theorem bufStore_accErr (b : Buffer) (l : List Byte) (s : State) : (bufStore b l s).accErr = s.accErr := rfl
@[simp] theorem bufStore_errCode (b : Buffer) (l : List Byte) (s : State) : (bufStore b l s).errCode = s.errCode := rfl
@[simp] theorem bufStore_nCorr (b : Buffer) (l : List Byte) (s : State) : (bufStore b l s).nCorr = s.nCorr := rfl
@[simp] theorem bufStore_rsReady (b : Buffer) (l : List Byte) (s : State) : (bufStore b l s).rsReady = s.rsReady := rfl
@[simp] theorem bufStore_keyValid (b : Buffer) (l : List Byte) (s : State) : (bufStore b l s).keyValid = s.keyValid := rfl
@[simp] theorem bufStore_cs (b : Buffer) (l : List Byte) (s : State) : (bufStore b l s).cs = s.cs := rfl
@[simp] theorem bufStore_addrCfg (b : Buffer) (l : List Byte) (s : State) : (bufStore b l s).addrCfg = s.addrCfg := rfl
@[simp] theorem bufStore_dest (b : Buffer) (l : List Byte) (s : State) : (bufStore b l s).dest = s.dest := rfl
@[simp] theorem bufStore_src (b : Buffer) (l : List Byte) (s : State) : (bufStore b l s).src = s.src := rfl
@[simp] theorem bufStore_ictrl (b : Buffer) (l : List Byte) (s : State) : (bufStore b l s).ictrl = s.ictrl := rfl
@[simp] theorem bufStore_ufLen (b : Buffer) (l : List Byte) (s : State) : (bufStore b l s).ufLen = s.ufLen := rfl
@[simp] theorem bufStore_txLen (b : Buffer) (l : List Byte) (s : State) : (bufStore b l s).txLen = s.txLen := rfl
@[simp] theorem bufStore_txLimit (b : Buffer) (l : List Byte) (s : State) : (bufStore b l s).txLimit = s.txLimit := rfl
@[simp] theorem bufStore_rxLen (b : Buffer) (l : List Byte) (s : State) : (bufStore b l s).rxLen = s.rxLen := rfl
@[simp] theorem bufStore_aesLen (b : Buffer) (l : List Byte) (s : State) : (bufStore b l s).aesLen = s.aesLen := rfl
@[simp] theorem bufStore_keyIn (b : Buffer) (l : List Byte) (s : State) : (bufStore b l s).keyIn = s.keyIn := rfl
@[simp] theorem bufStore_iv (b : Buffer) (l : List Byte) (s : State) : (bufStore b l s).iv = s.iv := rfl
@[simp] theorem bufStore_tag (b : Buffer) (l : List Byte) (s : State) : (bufStore b l s).tag = s.tag := rfl
@[simp] theorem bufStore_rxi (b : Buffer) (l : List Byte) (s : State) : (bufStore b l s).rxi = s.rxi := rfl
@[simp] theorem bufStore_rxDest (b : Buffer) (l : List Byte) (s : State) : (bufStore b l s).rxDest = s.rxDest := rfl
@[simp] theorem bufStore_rxSrc (b : Buffer) (l : List Byte) (s : State) : (bufStore b l s).rxSrc = s.rxSrc := rfl
@[simp] theorem bufStore_keyState (b : Buffer) (l : List Byte) (s : State) : (bufStore b l s).keyState = s.keyState := rfl
@[simp] theorem bufStore_mem (b : Buffer) (l : List Byte) (s : State) : (bufStore b l s).mem = writeBytes s.mem (bufBase b) l := rfl
@[simp] theorem bufStore_latLeft (b : Buffer) (l : List Byte) (s : State) : (bufStore b l s).latLeft = s.latLeft := rfl
@[simp] theorem bufStore_lats (b : Buffer) (l : List Byte) (s : State) : (bufStore b l s).lats = s.lats := rfl
@[simp] theorem bufStore_host (b : Buffer) (l : List Byte) (s : State) : (bufStore b l s).host = s.host := rfl
@[simp] theorem bufStore_readLog (b : Buffer) (l : List Byte) (s : State) : (bufStore b l s).readLog = s.readLog := rfl

/-! ### tick -/

@[simp] theorem tick_seq (s : State) : (tick s).seq = s.seq := by unfold tick; split <;> rfl
@[simp] theorem tick_cur (s : State) : (tick s).cur = s.cur := by unfold tick; split <;> rfl
@[simp] theorem tick_irqEn (s : State) : (tick s).irqEn = s.irqEn := by unfold tick; split <;> rfl
@[simp] theorem tick_done (s : State) : (tick s).done = s.done := by unfold tick; split <;> rfl
@[simp] theorem tick_accErr (s : State) : (tick s).accErr = s.accErr := by unfold tick; split <;> rfl
@[simp] theorem tick_errCode (s : State) : (tick s).errCode = s.errCode := by unfold tick; split <;> rfl
@[simp] theorem tick_nCorr (s : State) : (tick s).nCorr = s.nCorr := by unfold tick; split <;> rfl
@[simp] theorem tick_rsReady (s : State) : (tick s).rsReady = s.rsReady := by unfold tick; split <;> rfl
@[simp] theorem tick_keyValid (s : State) : (tick s).keyValid = s.keyValid := by unfold tick; split <;> rfl
@[simp] theorem tick_cs (s : State) : (tick s).cs = s.cs := by unfold tick; split <;> rfl
@[simp] theorem tick_addrCfg (s : State) : (tick s).addrCfg = s.addrCfg := by unfold tick; split <;> rfl
@[simp] theorem tick_dest (s : State) : (tick s).dest = s.dest := by unfold tick; split <;> rfl
@[simp] theorem tick_src (s : State) : (tick s).src = s.src := by unfold tick; split <;> rfl
@[simp] theorem tick_ictrl (s : State) : (tick s).ictrl = s.ictrl := by unfold tick; split <;> rfl
@[simp] theorem tick_ufLen (s : State) : (tick s).ufLen = s.ufLen := by unfold tick; split <;> rfl
@[simp] theorem tick_txLen (s : State) : (tick s).txLen = s.txLen := by unfold tick; split <;> rfl
@[simp] theorem tick_txLimit (s : State) : (tick s).txLimit = s.txLimit := by unfold tick; split <;> rfl
@[simp] theorem tick_rxLen (s : State) : (tick s).rxLen = s.rxLen := by unfold tick; split <;> rfl
@[simp] theorem tick_aesLen (s : State) : (tick s).aesLen = s.aesLen := by unfold tick; split <;> rfl
@[simp] theorem tick_keyIn (s : State) : (tick s).keyIn = s.keyIn := by unfold tick; split <;> rfl
@[simp] theorem tick_iv (s : State) : (tick s).iv = s.iv := by unfold tick; split <;> rfl
@[simp] theorem tick_tag (s : State) : (tick s).tag = s.tag := by unfold tick; split <;> rfl
@[simp] theorem tick_rxi (s : State) : (tick s).rxi = s.rxi := by unfold tick; split <;> rfl
@[simp] theorem tick_rxDest (s : State) : (tick s).rxDest = s.rxDest := by unfold tick; split <;> rfl
@[simp] theorem tick_rxSrc (s : State) : (tick s).rxSrc = s.rxSrc := by unfold tick; split <;> rfl
@[simp] theorem tick_keyState (s : State) : (tick s).keyState = s.keyState := by unfold tick; split <;> rfl
@[simp] theorem tick_mem (s : State) : (tick s).mem = s.mem := by unfold tick; split <;> rfl
@[simp] theorem tick_latLeft (s : State) : (tick s).latLeft = if busyFlag s then s.latLeft - 1 else s.latLeft := by unfold tick; split <;> rfl
@[simp] theorem tick_lats (s : State) : (tick s).lats = s.lats := by unfold tick; split <;> rfl
@[simp] theorem tick_host (s : State) : (tick s).host = s.host := by unfold tick; split <;> rfl
@[simp] theorem tick_readLog (s : State) : (tick s).readLog = s.readLog := by unfold tick; split <;> rfl

/-! ### storeRxAddrs -/

@[simp] theorem storeRxAddrs_seq (u s : State) : (storeRxAddrs u s).seq = s.seq := rfl
@[simp] theorem storeRxAddrs_cur (u s : State) : (storeRxAddrs u s).cur = s.cur := rfl
@[simp] theorem storeRxAddrs_irqEn (u s : State) : (storeRxAddrs u s).irqEn = s.irqEn := rfl
@[simp] theorem storeRxAddrs_done (u s : State) : (storeRxAddrs u s).done = s.done := rfl
@[simp] theorem storeRxAddrs_accErr (u s : State) : (storeRxAddrs u s).accErr = s.accErr := rfl
@[simp] theorem storeRxAddrs_errCode (u s : State) : (storeRxAddrs u s).errCode = s.errCode := rfl
@[simp] theorem storeRxAddrs_nCorr (u s : State) : (storeRxAddrs u s).nCorr = s.nCorr := rfl
@[simp] theorem storeRxAddrs_rsReady (u s : State) : (storeRxAddrs u s).rsReady = s.rsReady := rfl
@[simp] theorem storeRxAddrs_keyValid (u s : State) : (storeRxAddrs u s).keyValid = s.keyValid := rfl
@[simp] theorem storeRxAddrs_cs (u s : State) : (storeRxAddrs u s).cs = s.cs := rfl
@[simp] theorem storeRxAddrs_addrCfg (u s : State) : (storeRxAddrs u s).addrCfg = s.addrCfg := rfl
@[simp] theorem storeRxAddrs_dest (u s : State) : (storeRxAddrs u s).dest = s.dest := rfl
@[simp] theorem storeRxAddrs_src (u s : State) : (storeRxAddrs u s).src = s.src := rfl
@[simp] theorem storeRxAddrs_ictrl (u s : State) : (storeRxAddrs u s).ictrl = s.ictrl := rfl
@[simp] theorem storeRxAddrs_ufLen (u s : State) : (storeRxAddrs u s).ufLen = s.ufLen := rfl
@[simp] theorem storeRxAddrs_txLen (u s : State) : (storeRxAddrs u s).txLen = s.txLen := rfl
@[simp] theorem storeRxAddrs_txLimit (u s : State) : (storeRxAddrs u s).txLimit = s.txLimit := rfl
@[simp] theorem storeRxAddrs_rxLen (u s : State) : (storeRxAddrs u s).rxLen = s.rxLen := rfl
@[simp] theorem storeRxAddrs_aesLen (u s : State) : (storeRxAddrs u s).aesLen = s.aesLen := rfl
@[simp] theorem storeRxAddrs_keyIn (u s : State) : (storeRxAddrs u s).keyIn = s.keyIn := rfl
@[simp] theorem storeRxAddrs_iv (u s : State) : (storeRxAddrs u s).iv = s.iv := rfl
@[simp] theorem storeRxAddrs_tag (u s : State) : (storeRxAddrs u s).tag = s.tag := rfl
@[simp] theorem storeRxAddrs_rxi (u s : State) : (storeRxAddrs u s).rxi = s.rxi := rfl
@[simp] theorem storeRxAddrs_rxDest (u s : State) : (storeRxAddrs u s).rxDest = group7Of (bufSlice .uf 1 8 u) := rfl
@[simp] theorem storeRxAddrs_rxSrc (u s : State) : (storeRxAddrs u s).rxSrc = group7Of (bufSlice .uf 8 15 u) := rfl
@[simp] theorem storeRxAddrs_keyState (u s : State) : (storeRxAddrs u s).keyState = s.keyState := rfl
@[simp] theorem storeRxAddrs_mem (u s : State) : (storeRxAddrs u s).mem = s.mem := rfl
@[simp] theorem storeRxAddrs_latLeft (u s : State) : (storeRxAddrs u s).latLeft = s.latLeft := rfl
@[simp] theorem storeRxAddrs_lats (u s : State) : (storeRxAddrs u s).lats = s.lats := rfl
@[simp] theorem storeRxAddrs_host (u s : State) : (storeRxAddrs u s).host = s.host := rfl
@[simp] theorem storeRxAddrs_readLog (u s : State) : (storeRxAddrs u s).readLog = s.readLog := rfl

/-! ### withFetchWord -/

@[simp] theorem withFetchWord_seq (s : State) (n w : Nat) : (s.withFetchWord n w).seq = .busy := rfl
@[simp] theorem withFetchWord_cur (s : State) (n w : Nat) : (s.withFetchWord n w).cur = BitVec.ofNat 32 (w % 2 ^ n) := rfl
@[simp] theorem withFetchWord_irqEn (s : State) (n w : Nat) : (s.withFetchWord n w).irqEn = s.irqEn := rfl
@[simp] theorem withFetchWord_done (s : State) (n w : Nat) : (s.withFetchWord n w).done = false := rfl
@[simp] theorem withFetchWord_accErr (s : State) (n w : Nat) : (s.withFetchWord n w).accErr = s.accErr := rfl
@[simp] theorem withFetchWord_errCode (s : State) (n w : Nat) : (s.withFetchWord n w).errCode = .none := rfl
@[simp] theorem withFetchWord_nCorr (s : State) (n w : Nat) : (s.withFetchWord n w).nCorr = 0#5 := rfl
@[simp] theorem withFetchWord_rsReady (s : State) (n w : Nat) : (s.withFetchWord n w).rsReady = s.rsReady := rfl
@[simp] theorem withFetchWord_keyValid (s : State) (n w : Nat) : (s.withFetchWord n w).keyValid = s.keyValid := rfl
@[simp] theorem withFetchWord_cs (s : State) (n w : Nat) : (s.withFetchWord n w).cs = s.cs := rfl
@[simp] theorem withFetchWord_addrCfg (s : State) (n w : Nat) : (s.withFetchWord n w).addrCfg = s.addrCfg := rfl
@[simp] theorem withFetchWord_dest (s : State) (n w : Nat) : (s.withFetchWord n w).dest = s.dest := rfl
@[simp] theorem withFetchWord_src (s : State) (n w : Nat) : (s.withFetchWord n w).src = s.src := rfl
@[simp] theorem withFetchWord_ictrl (s : State) (n w : Nat) : (s.withFetchWord n w).ictrl = s.ictrl := rfl
@[simp] theorem withFetchWord_ufLen (s : State) (n w : Nat) : (s.withFetchWord n w).ufLen = s.ufLen := rfl
@[simp] theorem withFetchWord_txLen (s : State) (n w : Nat) : (s.withFetchWord n w).txLen = s.txLen := rfl
@[simp] theorem withFetchWord_txLimit (s : State) (n w : Nat) : (s.withFetchWord n w).txLimit = s.txLimit := rfl
@[simp] theorem withFetchWord_rxLen (s : State) (n w : Nat) : (s.withFetchWord n w).rxLen = s.rxLen := rfl
@[simp] theorem withFetchWord_aesLen (s : State) (n w : Nat) : (s.withFetchWord n w).aesLen = s.aesLen := rfl
@[simp] theorem withFetchWord_keyIn (s : State) (n w : Nat) : (s.withFetchWord n w).keyIn = s.keyIn := rfl
@[simp] theorem withFetchWord_iv (s : State) (n w : Nat) : (s.withFetchWord n w).iv = s.iv := rfl
@[simp] theorem withFetchWord_tag (s : State) (n w : Nat) : (s.withFetchWord n w).tag = s.tag := rfl
@[simp] theorem withFetchWord_rxi (s : State) (n w : Nat) : (s.withFetchWord n w).rxi = s.rxi := rfl
@[simp] theorem withFetchWord_rxDest (s : State) (n w : Nat) : (s.withFetchWord n w).rxDest = s.rxDest := rfl
@[simp] theorem withFetchWord_rxSrc (s : State) (n w : Nat) : (s.withFetchWord n w).rxSrc = s.rxSrc := rfl
@[simp] theorem withFetchWord_keyState (s : State) (n w : Nat) : (s.withFetchWord n w).keyState = s.keyState := rfl
@[simp] theorem withFetchWord_mem (s : State) (n w : Nat) : (s.withFetchWord n w).mem = s.mem := rfl
@[simp] theorem withFetchWord_latLeft (s : State) (n w : Nat) : (s.withFetchWord n w).latLeft = 0 := rfl
@[simp] theorem withFetchWord_lats (s : State) (n w : Nat) : (s.withFetchWord n w).lats = s.lats := rfl
@[simp] theorem withFetchWord_host (s : State) (n w : Nat) : (s.withFetchWord n w).host = s.host := rfl
@[simp] theorem withFetchWord_readLog (s : State) (n w : Nat) : (s.withFetchWord n w).readLog = s.readLog := rfl

/-! ### applyReset -/

@[simp] theorem applyReset_seq (s : State) : (applyReset s).seq = State.reset.seq := rfl
@[simp] theorem applyReset_cur (s : State) : (applyReset s).cur = State.reset.cur := rfl
@[simp] theorem applyReset_irqEn (s : State) : (applyReset s).irqEn = State.reset.irqEn := rfl
@[simp] theorem applyReset_done (s : State) : (applyReset s).done = State.reset.done := rfl
@[simp] theorem applyReset_accErr (s : State) : (applyReset s).accErr = State.reset.accErr := rfl
@[simp] theorem applyReset_errCode (s : State) : (applyReset s).errCode = State.reset.errCode := rfl
@[simp] theorem applyReset_nCorr (s : State) : (applyReset s).nCorr = State.reset.nCorr := rfl
@[simp] theorem applyReset_rsReady (s : State) : (applyReset s).rsReady = State.reset.rsReady := rfl
@[simp] theorem applyReset_keyValid (s : State) : (applyReset s).keyValid = State.reset.keyValid := rfl
@[simp] theorem applyReset_cs (s : State) : (applyReset s).cs = State.reset.cs := rfl
@[simp] theorem applyReset_addrCfg (s : State) : (applyReset s).addrCfg = State.reset.addrCfg := rfl
@[simp] theorem applyReset_dest (s : State) : (applyReset s).dest = State.reset.dest := rfl
@[simp] theorem applyReset_src (s : State) : (applyReset s).src = State.reset.src := rfl
@[simp] theorem applyReset_ictrl (s : State) : (applyReset s).ictrl = State.reset.ictrl := rfl
@[simp] theorem applyReset_ufLen (s : State) : (applyReset s).ufLen = State.reset.ufLen := rfl
@[simp] theorem applyReset_txLen (s : State) : (applyReset s).txLen = State.reset.txLen := rfl
@[simp] theorem applyReset_txLimit (s : State) : (applyReset s).txLimit = State.reset.txLimit := rfl
@[simp] theorem applyReset_rxLen (s : State) : (applyReset s).rxLen = State.reset.rxLen := rfl
@[simp] theorem applyReset_aesLen (s : State) : (applyReset s).aesLen = State.reset.aesLen := rfl
@[simp] theorem applyReset_keyIn (s : State) : (applyReset s).keyIn = State.reset.keyIn := rfl
@[simp] theorem applyReset_iv (s : State) : (applyReset s).iv = State.reset.iv := rfl
@[simp] theorem applyReset_tag (s : State) : (applyReset s).tag = State.reset.tag := rfl
@[simp] theorem applyReset_rxi (s : State) : (applyReset s).rxi = State.reset.rxi := rfl
@[simp] theorem applyReset_rxDest (s : State) : (applyReset s).rxDest = State.reset.rxDest := rfl
@[simp] theorem applyReset_rxSrc (s : State) : (applyReset s).rxSrc = State.reset.rxSrc := rfl
@[simp] theorem applyReset_keyState (s : State) : (applyReset s).keyState = State.reset.keyState := rfl
@[simp] theorem applyReset_mem (s : State) : (applyReset s).mem = State.reset.mem := rfl
@[simp] theorem applyReset_latLeft (s : State) : (applyReset s).latLeft = State.reset.latLeft := rfl
@[simp] theorem applyReset_lats (s : State) : (applyReset s).lats = s.lats := rfl
@[simp] theorem applyReset_host (s : State) : (applyReset s).host = s.host := rfl
@[simp] theorem applyReset_readLog (s : State) : (applyReset s).readLog = s.readLog := rfl

/-- A state is the values of its fields: two states that agree in every field are the same. -/
theorem state_ext (s t : State) (h0 : s.seq = t.seq) (h1 : s.cur = t.cur) (h2 : s.irqEn = t.irqEn)
    (h3 : s.done = t.done) (h4 : s.accErr = t.accErr) (h5 : s.errCode = t.errCode) (h6 : s.nCorr = t.nCorr)
    (h7 : s.rsReady = t.rsReady) (h8 : s.keyValid = t.keyValid) (h9 : s.cs = t.cs) (h10 : s.addrCfg = t.addrCfg)
    (h11 : s.dest = t.dest) (h12 : s.src = t.src) (h13 : s.ictrl = t.ictrl) (h14 : s.ufLen = t.ufLen)
    (h15 : s.txLen = t.txLen) (h16 : s.txLimit = t.txLimit) (h17 : s.rxLen = t.rxLen) (h18 : s.aesLen = t.aesLen)
    (h19 : s.keyIn = t.keyIn) (h20 : s.iv = t.iv) (h21 : s.tag = t.tag) (h22 : s.rxi = t.rxi)
    (h23 : s.rxDest = t.rxDest) (h24 : s.rxSrc = t.rxSrc) (h25 : s.keyState = t.keyState) (h26 : s.mem = t.mem)
    (h27 : s.latLeft = t.latLeft) (h28 : s.lats = t.lats) (h29 : s.host = t.host) (h30 : s.readLog = t.readLog) : s = t := by
  cases s; cases t; simp_all

end Sys2Proof.Laws
end

