-- ==== Sys2Proof/Laws/Ops.lean ====
section
/-! SUPPORT. What each shared operation can do, said once: the inversion lemmas that later proofs cite instead of unfolding. -/

namespace Sys2Proof.Laws

open Sys2Proof.Machine

/-! ### Completion -/

theorem raiseError_eq (c : ErrCode) (s : State) : raiseError c s = .next (finish c s) := rfl
theorem completeOk_eq (s : State) : completeOk s = .next (finish .none s) := rfl

@[simp] theorem raiseError_eq_next (c : ErrCode) (s t : State) : raiseError c s = .next t ↔ t = finish c s := by
  simp [raiseError, eq_comm]

@[simp] theorem completeOk_eq_next (s t : State) : completeOk s = .next t ↔ t = finish .none s := by
  simp [completeOk, eq_comm]

/-! ### Which accesses reach what -/

theorem widthBytes_pos (n : BusWidth) : 0 < widthBytes n := by cases n <;> decide

theorem widthBytes_le_four (n : BusWidth) : widthBytes n ≤ 4 := by cases n <;> decide

/-- R83: a register is reached by an aligned 4-byte access at its offset. -/
theorem targetOf_reg (n : BusWidth) (off : Nat) (r : Reg) (h : targetOf n off = some (.reg r)) :
    off < 0x100 ∧ n = .w4 ∧ off % 4 = 0 ∧ regAt off = some r := by
  unfold targetOf at h
  split at h
  · rename_i hlt
    split at h
    · rename_i hw
      simp only [Option.map_eq_some_iff, Target.reg.injEq, exists_eq_right] at h
      exact ⟨hlt, hw.1, hw.2, h⟩
    · simp at h
  · split at h <;> simp at h

/-- R84: bytes are reached from the access's own offset, aligned and inside one buffer. -/
theorem targetOf_bytes (n : BusWidth) (off a : Nat) (h : targetOf n off = some (.bytes a)) :
    a = off ∧ 0x100 ≤ off ∧ off % widthBytes n = 0 ∧ ∃ b, bufHolds off (widthBytes n) b = true := by
  unfold targetOf at h
  split at h
  · split at h
    · simp [Option.map_eq_some_iff] at h
    · simp at h
  · rename_i hlt
    split at h
    · rename_i hw
      simp only [Option.some.injEq, Target.bytes.injEq] at h
      obtain ⟨b, -, hb⟩ := List.any_eq_true.mp hw.2
      exact ⟨h.symm, by omega, hw.1, b, hb⟩
    · simp at h

/-- R86, R87: an admitted access has a target, open to it if a command is in flight. -/
theorem admitted_some (n : BusWidth) (off : Nat) (s : State) (t : Target) (h : admitted n off s = some t) :
    targetOf n off = some t ∧ (busyFlag s = true → openWhileBusy t = true) := by
  unfold admitted at h
  split at h
  · simp at h
  · rename_i u hu
    split at h
    · simp at h
    · rename_i hb
      simp only [Option.some.injEq] at h
      subst h
      refine ⟨hu, fun hbusy => ?_⟩
      simpa [hbusy] using hb

/-- R86, R89: all a read can do. -/
theorem memRead_cases (n : BusWidth) (off : BitVec 12) (s : State) :
    (admitted n off.toNat s = none ∧ memRead n off s = (0#32, setAccErr s)) ∨
      ∃ t, admitted n off.toNat s = some t ∧ memRead n off s = (readTarget n t s, s) := by
  unfold memRead
  cases h : admitted n off.toNat s with
  | none => exact .inl ⟨rfl, rfl⟩
  | some t => exact .inr ⟨t, rfl, rfl⟩

/-- R86, R90: all a write can do. -/
theorem memWrite_cases (n : BusWidth) (off : BitVec 12) (v : Word) (s : State) :
    (admitted n off.toNat s = none ∧ memWrite n off v s = setAccErr s) ∨
      ∃ t, admitted n off.toNat s = some t ∧ memWrite n off v s = writeTarget n t v s := by
  unfold memWrite
  cases h : admitted n off.toNat s with
  | none => exact .inl ⟨rfl, rfl⟩
  | some t => exact .inr ⟨t, rfl, rfl⟩

/-- A write to a register changes no buffer byte (R90). -/
@[simp] theorem writeReg_mem (r : Reg) (v : Word) (s : State) : (writeReg r v s).mem = s.mem := by
  cases r <;> rfl

/-- A write to a register never starts a turn of the host or answers it. -/
@[simp] theorem writeReg_host (r : Reg) (v : Word) (s : State) : (writeReg r v s).host = s.host := by
  cases r <;> rfl

@[simp] theorem writeReg_readLog (r : Reg) (v : Word) (s : State) : (writeReg r v s).readLog = s.readLog := by
  cases r <;> rfl

/-- R84, R86: a host write keeps the canonical form of memory. -/
theorem memWf_memWrite (n : BusWidth) (off : BitVec 12) (v : Word) (s : State) (h : memWf s.mem = true) :
    memWf (memWrite n off v s).mem = true := by
  rcases memWrite_cases n off v s with ⟨-, he⟩ | ⟨t, ht, he⟩
  · rw [he]; exact h
  · rw [he]
    cases t with
    | reg r => simpa [writeTarget] using h
    | bytes a =>
      obtain ⟨ha, -, -, b, hb⟩ := targetOf_bytes _ _ _ (admitted_some _ _ _ _ ht).1
      subst ha
      refine memWf_writeBytes_inBuffer _ b _ _ h ?_
      have : ((wordBytes v).take (widthBytes n)).length = widthBytes n := by
        simp [Nat.min_eq_left (widthBytes_le_four n)]
      rw [this]
      exact hb

/-! ### The host's turn and the step -/

/-- All a turn of the host can be. -/
theorem hostTurn_cases (s : State) :
    (s.host = [] ∧ hostTurn s = s) ∨
      ∃ op rest, s.host = op :: rest ∧
        ((opDone op (performOp op { s with host := rest }) = true ∧ hostTurn s = performOp op { s with host := rest }) ∨
          (opDone op (performOp op { s with host := rest }) = false ∧
            hostTurn s = { performOp op { s with host := rest } with host := op :: rest })) := by
  unfold hostTurn
  cases h : s.host with
  | nil => exact .inl ⟨rfl, rfl⟩
  | cons op rest =>
    refine .inr ⟨op, rest, rfl, ?_⟩
    cases hd : opDone op (performOp op { s with host := rest }) with
    | true => exact .inl ⟨rfl, by simp [hd]⟩
    | false => exact .inr ⟨rfl, by simp [hd]⟩

/-- All a step can do: run the command in flight, complete an illegal word, or take one turn of the host. -/
theorem step_cases (s t : State) (h : step s = .next t) :
    (completionDue s = true ∧ ∃ i, decode s.cur = .command i ∧ exec i s = .next t) ∨
      (completionDue s = true ∧ (∃ why, decode s.cur = .illegal why) ∧ t = finish .illegal s) ∨
        (completionDue s = false ∧ t = hostTurn (tick s)) := by
  unfold step fetchWord at h
  split at h
  · rename_i hd
    split at h
    · rename_i i hi
      exact .inl ⟨hd, i, hi, h⟩
    · rename_i why hi
      exact .inr (.inl ⟨hd, ⟨why, hi⟩, by simpa [completeIllegal] using h⟩)
  · rename_i hd
    simp only [Host.Outcome.next.injEq] at h
    exact .inr (.inr ⟨by simpa using hd, h.symm⟩)

end Sys2Proof.Laws
end

