-- ==== Sys2Proof/Laws/PerInstr.lean ====
section
/-! SUPPORT. What holds of every command as syntax, one lemma per constructor of `Instr` (LAWS.json: per_instruction). -/

namespace Sys2Proof.Laws.EncodesItsFields

/-- The word of a command splits into the fields the command stands for (30_encoding.md R110, R112), and they are well formed (R111 to
R113). -/
def Statement (i : Instr) : Prop := splitWord (encode i) = i.fields ∧ i.wellFormed = true

theorem rsInit : Statement .rsInit := by unfold Statement; decide
theorem rsRelease : Statement .rsRelease := by unfold Statement; decide
theorem rsEncode : Statement .rsEncode := by unfold Statement; decide
theorem rsDecode : Statement .rsDecode := by unfold Statement; decide
theorem aesSetkey : Statement .aesSetkey := by unfold Statement; decide
theorem aesCtr : Statement .aesCtr := by unfold Statement; decide
theorem aesGcmEnc : Statement .aesGcmEnc := by unfold Statement; decide
theorem aesGcmDec : Statement .aesGcmDec := by unfold Statement; decide
theorem ax25Addr (sel : AddrSel) : Statement (.ax25Addr sel) := by cases sel <;> exact ⟨by decide, by decide⟩
theorem ax25FrameI : Statement .ax25FrameI := by unfold Statement; decide
theorem ax25FrameU (ucmd : BitVec 2) (pf : Bool) : Statement (.ax25FrameU ucmd pf) := by
  have h : ∀ (u : BitVec 2) (p : Bool),
      splitWord (encode (.ax25FrameU u p)) = (Instr.ax25FrameU u p).fields ∧ (Instr.ax25FrameU u p).wellFormed = true := by decide
  exact h ucmd pf
theorem ax25Stuff : Statement .ax25Stuff := by unfold Statement; decide
theorem ax25Unstuff : Statement .ax25Unstuff := by unfold Statement; decide
theorem ax25Recv : Statement .ax25Recv := by unfold Statement; decide

end Sys2Proof.Laws.EncodesItsFields
end

