-- ==== Sys2Proof/Tests/Slice0.lean ====
section
/-! SUPPORT. Named tests, with expected values from 95_test_vectors.md and the rules' examples, and for every obligation with
hypotheses a concrete state and operands that meet them (`witness_…`). -/

namespace Sys2Proof.Tests

set_option Elab.async false

open Sys2Proof.Machine Sys2Proof.Laws

/-! ## Helpers -/

/-- A byte sequence written as numbers. -/
def bytes (l : List Nat) : List Byte := l.map (BitVec.ofNat 8)

/-- Reset, with bytes at a block offset. -/
def holding (a : Nat) (l : List Byte) : State := { State.reset with mem := writeBytes [] a l }

/-- A frame in UF. -/
def inUf (l : List Byte) : State := { holding 0x400 l with ufLen := BitVec.ofNat 9 l.length }

/-- A frame in RX. -/
def inRx (l : List Byte) : State := { holding 0x800 l with rxLen := BitVec.ofNat 9 l.length }

/-- Reset, with the engine's key 00 01 ... 0F, the IV 01 x 16 and a data length (95 parts 2.4, 2.5). -/
def keyed (n : Nat) : State :=
  { State.reset with
    keyState := group16Of (bytes (List.range 16)), keyValid := true, iv := group16Of (List.replicate 16 0x01#8),
    aesLen := BitVec.ofNat 8 n }

/-- The address bytes F-3 and F-4 (95 part 2.6). -/
def addrPair : List Byte := bytes [0xA8, 0x8A, 0xA6, 0xA8, 0x62, 0x40, 0xE2, 0xA8, 0x8A, 0xA6, 0xA8, 0x64, 0x40, 0x65]

/-- A U-frame between flags from its bytes after the addresses. -/
def uFrameOf (l : List Nat) : List Byte := flagByte :: (addrPair ++ bytes l ++ [flagByte])

/-- A 276-byte frame with zero addresses and zero information: its two control bytes, its PID and its FCS bytes. -/
def iFrameOf (c0 c1 pid f0 f1 : Byte) : List Byte :=
  flagByte :: (List.replicate 14 0#8 ++ [c0, c1, pid] ++ List.replicate 255 0#8 ++ [f0, f1, flagByte])

/-- The addresses F-3 and F-4 in DEST and SRC, call sign TEST1 with ADDR_CFG 0x115 (95 part 2.6). -/
def addressed : State :=
  { State.reset with
    dest := ⟨0xA8A68AA8#32, 0xE24062#24⟩, src := ⟨0xA8A68AA8#32, 0x654064#24⟩,
    cs := ⟨0x54534554#32, 0x00000031#32⟩, addrCfg := 0x115#9 }

/-- The state after one step that runs the word `w`. -/
def ran (w : Nat) (s : State) : Option State :=
  match step (s.withFetchWord 32 w) with
  | .next t => some t
  | _ => none

/-- The codeword R-3: MSG[i] = i and its parity (95 part 2.2). -/
def codewordR3 : List Byte :=
  bytes (List.range 223) ++
    bytes [0xFA, 0x15, 0x42, 0x48, 0xF4, 0xF3, 0x16, 0x29, 0xF3, 0x08, 0xC9, 0x22, 0x0E, 0xB3, 0x38, 0x85,
      0x97, 0x54, 0xFC, 0x94, 0xD9, 0x0D, 0xA8, 0x18, 0x4E, 0x5B, 0x4B, 0xFC, 0xE2, 0x75, 0x4C, 0x28]

/-! ## WellFormed: each check refuses an ill-formed command word's fields -/

/-- R113: RSVD bit 28 of E-4, 0x10000003. -/
theorem test_wellFormed_refuses_reserved_bits :
    (CmdFields.mk 0x03#8 0#4 0x10000#20).rsvdClear = false ∧ (CmdFields.mk 0x03#8 0#4 0x10000#20).wellFormed = false := by decide

/-- R111: opcode 0x05 of E-2. -/
theorem test_wellFormed_refuses_undefined_opcode :
    (CmdFields.mk 0x05#8 0#4 0#20).opcodeDefined = false ∧ (CmdFields.mk 0x05#8 0#4 0#20).wellFormed = false := by decide

/-- R112: ARG 1 of RS_INIT (E-3), ARG[1] of AX25_ADDR (E-5), ARG[3] of AX25_FRAME_U (U-8). -/
theorem test_wellFormed_refuses_arg_bits :
    (CmdFields.mk 0x01#8 1#4 0#20).argClear = false ∧ (CmdFields.mk 0x20#8 2#4 0#20).argClear = false ∧
      (CmdFields.mk 0x22#8 8#4 0#20).argClear = false ∧ (CmdFields.mk 0x22#8 8#4 0#20).wellFormed = false := by decide

/-! ## Decode: each word written out bit by bit, RSVD, ARG and OPCODE as R110 to R114 place them -/

theorem test_decode_rsInit : decode (0#20 ++ 0b0000#4 ++ 0b00000001#8) = .command .rsInit := by decide
theorem test_decode_rsRelease : decode (0#20 ++ 0b0000#4 ++ 0b00000010#8) = .command .rsRelease := by decide
theorem test_decode_rsEncode : decode (0#20 ++ 0b0000#4 ++ 0b00000011#8) = .command .rsEncode := by decide
theorem test_decode_rsDecode : decode (0#20 ++ 0b0000#4 ++ 0b00000100#8) = .command .rsDecode := by decide
theorem test_decode_aesSetkey : decode (0#20 ++ 0b0000#4 ++ 0b00010000#8) = .command .aesSetkey := by decide
theorem test_decode_aesCtr : decode (0#20 ++ 0b0000#4 ++ 0b00010001#8) = .command .aesCtr := by decide
theorem test_decode_aesGcmEnc : decode (0#20 ++ 0b0000#4 ++ 0b00010010#8) = .command .aesGcmEnc := by decide
theorem test_decode_aesGcmDec : decode (0#20 ++ 0b0000#4 ++ 0b00010011#8) = .command .aesGcmDec := by decide
theorem test_decode_ax25Addr_dest : decode (0#20 ++ 0b0000#4 ++ 0b00100000#8) = .command (.ax25Addr .dest) := by decide
theorem test_decode_ax25Addr_src : decode (0#20 ++ 0b0001#4 ++ 0b00100000#8) = .command (.ax25Addr .src) := by decide
theorem test_decode_ax25FrameI : decode (0#20 ++ 0b0000#4 ++ 0b00100001#8) = .command .ax25FrameI := by decide
/-- ARG = 0 PF UCMD: DISC without poll, ACK with it. -/
theorem test_decode_ax25FrameU :
    decode (0#20 ++ 0b0001#4 ++ 0b00100010#8) = .command (.ax25FrameU 1#2 false) ∧
      decode (0#20 ++ 0b0110#4 ++ 0b00100010#8) = .command (.ax25FrameU 2#2 true) := by decide
theorem test_decode_ax25Stuff : decode (0#20 ++ 0b0000#4 ++ 0b00100011#8) = .command .ax25Stuff := by decide
theorem test_decode_ax25Unstuff : decode (0#20 ++ 0b0000#4 ++ 0b00110000#8) = .command .ax25Unstuff := by decide
theorem test_decode_ax25Recv : decode (0#20 ++ 0b0000#4 ++ 0b00110001#8) = .command .ax25Recv := by decide

/-- E-1 to E-5 and U-8: rejected by name. -/
theorem test_decode_illegal :
    decode 0x00000000#32 = .illegal .undefinedOpcode ∧ decode 0x00000005#32 = .illegal .undefinedOpcode ∧
      decode 0x00000101#32 = .illegal .argBits ∧ decode 0x10000003#32 = .illegal .reservedBits ∧
      decode 0x00000220#32 = .illegal .argBits ∧ decode 0x00000822#32 = .illegal .argBits := by decide

/-- R85: the word of a CMD write, low byte first. -/
theorem test_decodeBytes :
    decodeBytes (bytes [0x22, 0x06, 0x00, 0x00]) = some (.command (.ax25FrameU 2#2 true)) ∧ decodeBytes (bytes [0x22]) = none := by
  decide

/-- The host's question: the table word of AX25_FRAME_U with PF, and the step that runs it first after reset. -/
theorem test_decodeTableWord :
    decodeTableWord 32 0x422 = some (.ax25FrameU 0#2 true) ∧ decodeTableWord 32 0x100000422 = some (.ax25FrameU 0#2 true) := by
  decide

/-! ## The field and the ciphers -/

/-- G-2, G-3, G-4. -/
theorem test_gf : alphaPow 8 = 0x87#8 ∧ alphaPow 254 = 0xC3#8 ∧ alphaPow 255 = 0x01#8 ∧ gfMul 0x80#8 0x02#8 = 0x87#8 ∧
    gfMul 0x53#8 0xCA#8 = 0xA8#8 := by decide +kernel

/-- G-5, G-6. -/
theorem test_gf_inv : gfInv 0x02#8 = 0xC3#8 ∧ gfInv 0x53#8 = 0x4D#8 ∧ gfLog 0x87#8 = some 8 ∧ gfLog 0x03#8 = some 99 := by
  decide +kernel

/-- R144: the product of the (x - alpha^j), j = 1..32, has the listed coefficients. -/
theorem test_generator :
    (List.range 32).foldl (fun p j => polyMul p [alphaPow (j + 1), 1#8]) [1#8] = rsGenLow ++ [1#8] := by decide +kernel

/-- A-1: FIPS-197 C.1. -/
theorem test_aes_fips197 :
    aesEnc (bytes (List.range 16))
        (bytes [0x00, 0x11, 0x22, 0x33, 0x44, 0x55, 0x66, 0x77, 0x88, 0x99, 0xAA, 0xBB, 0xCC, 0xDD, 0xEE, 0xFF]) =
      bytes [0x69, 0xC4, 0xE0, 0xD8, 0x6A, 0x7B, 0x04, 0x30, 0xD8, 0xCD, 0xB7, 0x80, 0x70, 0xB4, 0xC5, 0x5A] := by
  decide +kernel

/-! ## The commands, one step each -/

/-- R154's example: STATUS = 0x0100_0002. -/
theorem test_rs_init : (ran 0x01 State.reset).map statusWord = some 0x01000002#32 := by decide +kernel

theorem test_rs_release : (ran 0x02 { State.reset with rsReady := true }).map statusWord = some 0x00000002#32 := by decide +kernel

/-- R-2: the parity of a message that is 0 but for MSG[222] = 1 is g_31..g_0. -/
theorem test_rs_encode :
    exec .rsEncode { holding 0x1DE [1#8] with rsReady := true } =
      .next (finish .none (bufStore .cw (List.replicate 222 0#8 ++ 1#8 :: rsGenHigh) { holding 0x1DE [1#8] with rsReady := true })) := by
  have hm : bufAll .msg { holding 0x1DE [1#8] with rsReady := true } = List.replicate 222 0#8 ++ [1#8] := by decide +kernel
  have hp : (rsEncGo [1#8] (List.replicate 32 0#8)).reverse = rsGenHigh := by decide +kernel
  have he : rsEnc (List.replicate 222 0#8 ++ [1#8]) = List.replicate 222 0#8 ++ 1#8 :: rsGenHigh := by
    rw [rsEnc, rsParity, rsNpar, rsEncGo_zeros, hp, List.append_assoc, List.singleton_append]
  simp only [exec, execRsEncode, Bool.true_eq_false, if_false, hm, he, completeOk]

/-- E-6: ERR_NOT_INIT from reset. -/
theorem test_rs_encode_not_init : (ran 0x03 State.reset).map statusWord = some 0x00000202#32 := by decide +kernel

/-- R-12: the zero word with CW[254] = 1 decodes to the zero message, one byte corrected. -/
theorem test_rsDec_one_error : rsDec (List.replicate 254 0#8 ++ [1#8]) = some (List.replicate 223 0#8, 1) := by
  have h1 : syndromes [1#8] = List.replicate 32 1#8 := by decide +kernel
  have h2 : berlekampMassey (List.replicate 32 1#8) = ⟨[1#8, 1#8], [1#8], 1, 32, 1#8⟩ := by decide +kernel
  have h3 : errorPositions [1#8, 1#8] = [0] := by decide +kernel
  have h4 : correctAt (errorEvaluator (List.replicate 32 1#8) [1#8, 1#8]) [1#8, 1#8] [0] (List.replicate 254 0#8 ++ [1#8]) =
      some (List.replicate 255 0#8) := by decide +kernel
  have h5 : hamming (List.replicate 254 0#8 ++ [1#8]) (List.replicate 255 0#8) = 1 := by decide +kernel
  rw [rsDec, syndromes_zeros, h1]
  simp only [h2, h3, h4, h5, syndromes_zero_word]
  decide +kernel

/-- A word whose first sixteen syndromes are 0 and whose seventeenth is not: the locator is longer than 16. -/
def farWord : List Byte := [1#8, 201#8, 81#8, 224#8, 59#8, 248#8, 125#8, 198#8, 126#8, 199#8, 5#8, 15#8, 211#8, 163#8, 3#8, 241#8, 117#8]

/-- R151: no codeword within distance 16. -/
theorem test_rsDec_fails : rsDec (List.replicate 238 0#8 ++ farWord) = none := by
  have h1 : allZero (syndromes farWord) = false := by decide +kernel
  have h2 : (berlekampMassey (syndromes farWord)).len > rsT := by decide +kernel
  rw [rsDec, syndromes_zeros]
  simp only [h1, h2, if_true, Bool.false_eq_true, if_false]

/-- KEYIN 00 01 ... 0F becomes the key; KEY_VALID. -/
theorem test_aes_setkey :
    (ran 0x10 { State.reset with keyIn := ⟨0x03020100#32, 0x07060504#32, 0x0B0A0908#32, 0x0F0E0D0C#32⟩ }).map
        (fun t => (statusWord t, keyBytes t)) = some (0x02000002#32, bytes (List.range 16)) := by decide +kernel

/-- T-7: seventeen bytes of keystream, so the counter advances once. -/
theorem test_aes_ctr :
    (ran 0x11 (keyed 17)).map (bufSlice .adata 0 18) =
      some (bytes [0xC3, 0x52, 0x80, 0x57, 0x54, 0x23, 0x7F, 0x31, 0x1A, 0xC0, 0xFF, 0xF4, 0xE3, 0xE0, 0x3E, 0x78, 0x70, 0x00]) := by
  decide +kernel

/-- E-8: the length is checked before the key. -/
theorem test_aes_ctr_len : (ran 0x11 { State.reset with aesLen := 208#8 }).map statusWord = some 0x00000402#32 := by decide +kernel

/-- The tag of M-2. -/
def tagM2 : List Byte := bytes [0xEA, 0xEE, 0x96, 0xA0, 0xF4, 0xA4, 0x95, 0x6F, 0x73, 0x47, 0x12, 0xF4, 0x45, 0xF2, 0x2B, 0xF6]

/-- The ciphertext and the tag of M-2. -/
def gcmM2 : State := { keyed 1 with mem := [(0x300, 0xA5#8)], tag := group16Of tagM2 }

/-- M-2. -/
theorem test_gcm_enc : (ran 0x12 (keyed 1)).map (fun t => (t.mem, tagBytes t)) = some ([(0x300, 0xA5#8)], tagM2) := by decide +kernel

/-- M-2 decrypted. -/
theorem test_gcm_dec : (ran 0x13 gcmM2).map (fun t => (t.mem, t.errCode)) = some ([], .none) := by decide +kernel

/-- R194: a changed tag bit. -/
theorem test_gcm_dec_auth :
    (ran 0x13 { gcmM2 with tag := { gcmM2.tag with r3 := gcmM2.tag.r3 ^^^ 0x80000000#32 } }).map (fun t => (t.mem, t.errCode)) =
      some ([(0x300, 0xA5#8)], .auth) := by decide +kernel

/-- F-3. -/
theorem test_ax25_addr : (ran 0x20 { addressed with dest := zero7 }).map State.dest = some ⟨0xA8A68AA8#32, 0xE24062#24⟩ := by
  decide +kernel

/-- F-8: CS_LEN 7. -/
theorem test_ax25_addr_arg : (ran 0x20 { State.reset with addrCfg := 7#9 }).map statusWord = some 0x00000502#32 := by decide +kernel

/-- I-2: control bytes 0A 07, FCS 54 AD. -/
theorem test_ax25_frame_i :
    (ran 0x21 { addressed with ictrl := 0x385#15, mem := writeBytes [] 0x200 codewordR3 }).map
        (fun t => (t.ufLen, bufSlice .uf 15 19 t, bufSlice .uf 272 276 t)) =
      some (276#9, bytes [0x0A, 0x07, 0xF0, 0x00], bytes [0x28, 0x54, 0xAD, 0x7E]) := by decide +kernel

/-- U-2. -/
theorem test_ax25_frame_u :
    (ran 0x422 addressed).map (fun t => (t.ufLen, bufSlice .uf 0 20 t)) =
      some (20#9, uFrameOf [0x13, 0xF0, 0x1A, 0xFA]) := by decide +kernel

/-- U-7: UCMD 3. -/
theorem test_ax25_frame_u_arg : (ran 0x322 addressed).map statusWord = some 0x00000502#32 := by decide +kernel

/-- S-7: FF 03 stuffs to DF 07 00. -/
theorem test_ax25_stuff :
    (ran 0x23 (inUf (bytes [0x7E, 0xFF, 0x03, 0x7E]))).map (fun t => (t.txLen, bufSlice .tx 0 5 t)) =
      some (5#9, bytes [0x7E, 0xDF, 0x07, 0x00, 0x7E]) := by decide +kernel

/-- S-17. -/
theorem test_ax25_stuff_overflow :
    (ran 0x23 { inUf (uFrameOf [0x13, 0xF0, 0x1A, 0xFA]) with txLimit := 10#9 }).map statusWord = some 0x00000802#32 := by
  decide +kernel

/-- D-3: twelve bits are left, and the last four are dropped. -/
theorem test_ax25_unstuff :
    (ran 0x30 (inRx (bytes [0x7E, 0xDF, 0x07, 0x7E]))).map (fun t => (t.ufLen, bufSlice .uf 0 3 t)) =
      some (3#9, bytes [0x7E, 0xFF, 0x7E]) := by decide +kernel

/-- D-6: a flag inside the body. -/
theorem test_ax25_unstuff_corrupt : (ran 0x30 (inRx (bytes [0x7E, 0x7E, 0x7E]))).map statusWord = some 0x00000A02#32 := by
  decide +kernel

/-- V-1. -/
theorem test_ax25_recv_u :
    (ran 0x31 (inUf (uFrameOf [0x13, 0xF0, 0x1A, 0xFA]))).map (fun t => (t.rxi, group7Bytes t.rxDest ++ group7Bytes t.rxSrc)) =
      some (0x001309#24, addrPair) := by decide +kernel

/-- V-3: the I-2 frame. -/
theorem test_ax25_recv_i :
    (ran 0x31
        (inUf (flagByte :: (addrPair ++ bytes [0x0A, 0x07, 0xF0] ++ codewordR3 ++ bytes [0x54, 0xAD, 0x7E])))).map
        (fun t => (t.errCode, t.rxi, bufAll .cw t)) = some (.none, 0x070A08#24, codewordR3) := by decide +kernel

/-! ## The host's side -/

/-- R85's example, through four host turns: 0x44332211 written at MSG index 0, then read back byte by byte and as a half word. -/
theorem test_little_endian :
    let s := { State.reset with
      host := [.write .w4 0x100#12 0x44332211#32, .read .w1 0x100#12, .read .w1 0x103#12, .read .w2 0x102#12] }
    (match Sys2Proof.core.run 4 s with
      | .next t => t.readLog
      | _ => []) = [0x00004433#32, 0x00000044#32, 0x00000011#32] := by decide +kernel

/-- P6: a write to the reserved offset 0x00C is refused; a write of 4 to STATUS clears ACCERR. -/
theorem test_refused_access :
    (memRead .w4 0x008#12 (memWrite .w4 0x00C#12 5#32 State.reset)).1 = 0x00000004#32 ∧
      memWrite .w4 0x008#12 4#32 (memWrite .w4 0x00C#12 5#32 State.reset) = State.reset := by decide +kernel

/-- R119: what `run rs.init` does from reset where the environment gives LAT = 3: accepted, polled twice, completed, polled, and
DONE cleared. -/
theorem test_run_rs_init :
    (match Sys2Proof.core.run 6 { State.reset with host := progRun 0x01#32, lats := [2] } with
      | .next t => (statusWord t, t.readLog, t.host)
      | _ => (0#32, [], [])) =
      (0x01000000#32, [0x01000002#32, 0x00000001#32, 0x00000001#32], []) := by decide +kernel

/-- R119: `setbytes CS, 54 45 53 54 31`. -/
theorem test_setbytes :
    progSetbytes .cs (bytes [0x54, 0x45, 0x53, 0x54, 0x31]) =
      [.write .w4 0x010#12 0x54534554#32, .write .w4 0x014#12 0x00000031#32] := by decide +kernel

/-! ## Witnesses: the hypotheses of each obligation can be met -/

/-- The command word of AX25_FRAME_U ack, pf, in flight with `n` host turns to go. -/
def inFlight (n : Nat) : State :=
  { State.reset with
    seq := .busy, cur := 0x00000622#32, latLeft := n, host := [.wait, .write .w4 0x000#12 1#32, .read .w4 0x200#12, .reset] }

theorem witness_DecodeAndEncodeAgree :
    (Instr.ax25FrameU 3#2 true).wellFormed = true ∧ decode 0x00000722#32 = .command (.ax25FrameU 3#2 true) := by decide

theorem witness_MaskAndMatchSelectTheCommand :
    ∃ r ∈ opcodeTable, r.selects 0x00000722#32 = true ∧ r.mnemonic = "AX25_FRAME_U" := by decide

theorem witness_StepRunsTheDecodedCommand :
    ((inFlight 0).seq = .busy ∧ (inFlight 0).latLeft = 0 ∧ decode (inFlight 0).cur = .command (.ax25FrameU 2#2 true)) ∧
      State.reset.seq = .idle ∧ (inFlight 1).seq = .busy ∧ (inFlight 1).latLeft ≠ 0 := by decide

/-- One state for each kind of the host's next operation, and none left. -/
theorem witness_StepRunsTheDecodedCommand_hostTurn :
    State.reset.host = [] ∧
      ∀ op ∈ [HostOp.write .w1 0x400#12 0x7E#32, .read .w4 0x008#12, .writeBack .w1 0x401#12 0#32, .wait, .idle,
        .writeAt .w4 Config.coreBase 1#32, .readAt .w4 Config.coreBase],
        ({ State.reset with host := [op, .idle] }).host = op :: [.idle] :=
  ⟨rfl, fun _ _ => rfl⟩

theorem witness_IllegalWordCompletesWithErrIllegal :
    ({ inFlight 0 with cur := 0#32 }).seq = .busy ∧ ({ inFlight 0 with cur := 0#32 }).latLeft = 0 ∧
      ∀ i, encode i ≠ ({ inFlight 0 with cur := 0#32 }).cur := by
  refine ⟨rfl, rfl, fun i => ?_⟩
  cases i with
  | ax25Addr sel => cases sel <;> decide
  | ax25FrameU u p => revert u p; decide
  | _ => decide

theorem witness_AcceptedCommandCompletes :
    (inFlight 3).seq = .busy ∧ (inFlight 3).latLeft = 3 ∧ noResetWithin 3 (inFlight 3) := by
  unfold noResetWithin
  decide

theorem witness_CommandCommitsItsAcceptanceState :
    (inFlight 3).seq = .busy ∧ (inFlight 3).latLeft = 3 ∧ decode (inFlight 3).cur = .command (.ax25FrameU 2#2 true) ∧
      noResetWithin 3 (inFlight 3) := by
  unfold noResetWithin
  decide

/-- A reserved offset, the byte after a buffer, a wrong width, a misaligned offset, and CMD while BUSY; then accesses allowed. -/
theorem witness_RefusedAccesses :
    refusedAccess .w4 0x00C State.reset = true ∧ refusedAccess .w1 0x1DF State.reset = true ∧
      refusedAccess .w1 0x008 State.reset = true ∧ refusedAccess .w4 0x102 State.reset = true ∧
      refusedAccess .w4 0x004 (inFlight 1) = true ∧ refusedAccess .w1 0x1DE State.reset = false ∧
      refusedAccess .w4 0x008 (inFlight 1) = false ∧ State.reset.seq = .idle := by decide +kernel

theorem witness_BusyBlockIsClosed : (inFlight 1).seq = .busy ∧ closedWhileBusy .w4 0x004 ∧
    ¬closedWhileBusy .w4 0x008 := by decide

theorem witness_ReadsHaveNoSideEffects : refusedAccess .w4 0x090 State.reset = false := by decide +kernel

/-- The first and the last byte of the buffers' space, and each width. -/
theorem witness_BufferAccessIsLittleEndian :
    (0x100 ≤ (0x100#12).toNat ∧ refusedAccess .w4 (0x100#12).toNat State.reset = false) ∧
      (0x100 ≤ (0x512#12).toNat ∧ refusedAccess .w2 (0x512#12).toNat State.reset = false) ∧
      (0x100 ≤ (0x94A#12).toNat ∧ refusedAccess .w1 (0x94A#12).toNat State.reset = false) := by decide +kernel

/-- R82, R84: the first and the last aligned access of each window, while idle. -/
theorem witness_BufferAccessIsLittleEndian_accepted :
    State.reset.seq = .idle ∧
      ∀ p ∈ [(BusWidth.w4, 0x100#12), (.w1, 0x1DE#12), (.w4, 0x200#12), (.w1, 0x2FE#12), (.w4, 0x300#12), (.w1, 0x3CE#12),
        (.w2, 0x400#12), (.w4, 0x510#12), (.w4, 0x600#12), (.w1, 0x74A#12), (.w4, 0x800#12), (.w2, 0x948#12)],
        p.2.toNat % widthBytes p.1 = 0 ∧ ∀ k, k < widthBytes p.1 → bufferOffset (p.2.toNat + k) := by decide +kernel

/-- IV3 is written, STATUS is read: the first clause; the others ask for the idle state, or for nothing. -/
theorem witness_RegistersStoreTheirWritableBits :
    ∃ t, State.reset.seq = .idle ∧ t = memWrite .w4 0x06C#12 5#32 State.reset ∧ (0x008#12 : BitVec 12) ≠ 0x06C#12 ∧
      (0x008#12 : BitVec 12).toNat < 0x100 := ⟨_, rfl, rfl, by decide⟩

/-- R58 at both ends: the last byte of a group of 16, of 8, and of 7 bytes. -/
theorem test_groupPacking :
    (group16Bytes ⟨0#32, 0#32, 0#32, 0xAB000000#32⟩).getD 15 0#8 = 0xAB#8 ∧
      (group8Bytes ⟨0#32, 0xAB000000#32⟩).getD 7 0#8 = 0xAB#8 ∧ (group7Bytes ⟨0#32, 0xAB0000#24⟩).getD 6 0#8 = 0xAB#8 := by decide

theorem witness_StatusRegister : (0x6#32).getLsbD 1 = true ∧ (0x6#32).getLsbD 2 = true := by decide

theorem witness_CommandAcceptance :
    State.reset.seq = .idle ∧ decode 0x00000101#32 = .illegal .argBits ∧ decode 0x00000120#32 = .command (.ax25Addr .src) ∧
      (inFlight 1).seq = .busy := by decide

/-- A command's completion, an illegal word's completion, an idle state, the two W1C and enable bits, and a refused access. -/
theorem witness_CompletionInterrupt :
    (∃ t, exec .rsInit { State.reset with irqEn := true } = .next t) ∧
      (∃ t, ({ inFlight 0 with cur := 0#32 }).seq = .busy ∧ ({ inFlight 0 with cur := 0#32 }).latLeft = 0 ∧
        step { inFlight 0 with cur := 0#32 } = .next t) ∧
      State.reset.seq = .idle ∧ (0x2#32).getLsbD 1 = true ∧ (0x2#32).getLsbD 0 = false ∧
      refusedAccess .w4 (0x00C#12).toNat State.reset = true :=
  ⟨⟨_, rfl⟩, ⟨_, rfl, rfl, rfl⟩, by decide, by decide, by decide, by decide +kernel⟩

/-- The first byte after the window; and address 0, below every window but one that starts at 0 (CORE_BASE has no value here, R8). -/
theorem witness_HostAddressWindow :
    (Config.coreBase + 4096 + widthBytes .w4 ≤ Config.coreBase ∨ Config.coreBase + 4096 ≤ Config.coreBase + 4096) ∧
      (Config.coreBase ≠ 0 → 0 + widthBytes .w4 ≤ Config.coreBase) := by
  refine ⟨.inr (Nat.le_refl _), fun h => ?_⟩
  have h4 : widthBytes .w4 = 4 := rfl
  unfold Config.coreBase at h ⊢
  omega

theorem witness_ResetAbandonsTheCommand :
    ({ inFlight 1 with host := [.reset] }).host = .reset :: [] ∧
      (({ inFlight 1 with host := [.reset] }).seq = .busy → ({ inFlight 1 with host := [.reset] }).latLeft ≠ 0) := by decide

theorem witness_FailedCommandChangesOnlyStatus :
    ∃ t, exec .rsEncode State.reset = .next t ∧ t.errCode ≠ .none := ⟨_, rfl, by decide⟩

theorem witness_CommandsLeaveTheHostsInputs : ∃ t, exec .ax25FrameI addressed = .next t := ⟨_, rfl⟩

theorem witness_OutputRegistersHaveTheirWriters :
    ∃ t, exec .aesSetkey { State.reset with keyValid := true } = .next t := ⟨_, rfl⟩

theorem witness_BuffersHaveTheirWriters : ∃ t, exec .ax25FrameI addressed = .next t := ⟨_, rfl⟩

theorem witness_KeyStateIsSealed : ∃ t, exec .aesSetkey State.reset = .next t := ⟨_, rfl⟩

theorem witness_StepKeepsTheInvariant :
    ∃ t, stateInv (inFlight 0) = true ∧ step (inFlight 0) = .next t := ⟨_, by decide +kernel, rfl⟩

theorem witness_RsCommandsNeedTheContext : State.reset.rsReady = false := by decide

theorem witness_RsEncodeWritesTheCodeword : ({ State.reset with rsReady := true }).rsReady = true := by decide

/-- Both clauses: the zero word (n = 0), and a word no codeword is near. -/
theorem witness_RsDecodeWritesTheMessage :
    (({ State.reset with rsReady := true }).rsReady = true ∧
        rsDec (bufAll .cw { State.reset with rsReady := true }) = some (List.replicate 223 0#8, 0)) ∧
      ({ holding 0x2EE farWord with rsReady := true }).rsReady = true ∧
        rsDec (bufAll .cw { holding 0x2EE farWord with rsReady := true }) = none := by
  have h1 : bufAll .cw { State.reset with rsReady := true } = List.replicate 255 0#8 := by decide +kernel
  have h2 : bufAll .cw { holding 0x2EE farWord with rsReady := true } = List.replicate 238 0#8 ++ farWord := by decide +kernel
  exact ⟨⟨rfl, by rw [h1]; exact rsDec_zero_word⟩, rfl, by rw [h2]; exact test_rsDec_fails⟩

theorem witness_EncodingGivesSystematicCodewords :
    (List.replicate 223 0xA5#8).length = 223 ∧ (List.replicate 223 0x5A#8).length = 223 ∧ 1 ≤ 32 ∧ 32 ≤ 32 :=
  ⟨List.length_replicate, List.length_replicate, by decide⟩

/-- R141: the turns of GF.mul(0x80, 0xCA), one of its bytes and one word of 255 bytes. -/
theorem witness_EncodingGivesSystematicCodewords_field :
    gfMulTurns 0x80#8 0xCA#8 (fun k => gfMulGo k 0x80#8 0xCA#8 0#8) (fun k => gfPowGo k 0x80#8) ∧ (0xFF#8 : Byte) ≠ 0#8 ∧
      (List.replicate 255 0xFF#8).length = 255 :=
  ⟨by unfold gfMulTurns; decide +kernel, by decide, List.length_replicate⟩

/-- R224: the turns that take in the byte "2" after "1". -/
theorem witness_Ax25FrameIBuildsTheFrame_fcs :
    fcsTurns [0x31#8] 0x32#8 (fun k => crcBits k ((fcs [0x31#8] ^^^ 0xFFFF#16) ^^^ 0x32#16)) := by
  unfold fcsTurns
  decide +kernel

theorem witness_DecoderIsSound :
    (List.replicate 254 0#8 ++ [1#8] : List Byte).length = 255 ∧
      rsDec (List.replicate 254 0#8 ++ [1#8]) = some (List.replicate 223 0#8, 1) := ⟨by rw [List.length_append, List.length_replicate]; rfl, test_rsDec_one_error⟩

theorem witness_RsRoundTrip : (List.replicate 223 0xA5#8).length = 223 := List.length_replicate

/-- The last byte, and the highest error bit. -/
theorem witness_RsCorrectsOneByte : (List.replicate 223 0xA5#8).length = 223 ∧ 254 < 255 ∧ (0x80#8 : Byte) ≠ 0#8 :=
  ⟨List.length_replicate, by decide⟩

/-- The zero word is a codeword. -/
theorem zero_isCodeword : isCodeword (List.replicate 255 0#8) := by
  refine ⟨List.length_replicate, fun j _ _ => ?_⟩
  have h := hornerHigh_zeros (alphaPow j) 255 []
  rwa [List.append_nil] at h

/-- A received word at distance 16 from the zero codeword; a word the decoder fails on; an error of 16 bytes. -/
theorem witness_RsDecodesWithinSixteen :
    ((List.replicate 239 0#8 ++ List.replicate 16 0xFF#8 : List Byte).length = 255 ∧ isCodeword (List.replicate 255 0#8) ∧
        hamming (List.replicate 239 0#8 ++ List.replicate 16 0xFF#8) (List.replicate 255 0#8) ≤ 16) ∧
      ((List.replicate 238 0#8 ++ farWord).length = 255 ∧ rsDec (List.replicate 238 0#8 ++ farWord) = none) ∧
      (List.replicate 223 0xA5#8).length = 223 ∧
        (List.replicate 239 0#8 ++ List.replicate 16 0xFF#8 : List Byte).countP (· != 0#8) = 16 :=
  ⟨⟨by decide +kernel, zero_isCodeword, by decide +kernel⟩, ⟨by decide +kernel, test_rsDec_fails⟩, List.length_replicate,
    by decide +kernel⟩

/-- The words w[0..44) for the key 00 01 ... 0F, four to a row; the second and the last row are A-4 and A-5. -/
def fipsWords : List (List Byte) :=
  [bytes [0x00, 0x01, 0x02, 0x03, 0x04, 0x05, 0x06, 0x07, 0x08, 0x09, 0x0A, 0x0B, 0x0C, 0x0D, 0x0E, 0x0F],
   bytes [0xD6, 0xAA, 0x74, 0xFD, 0xD2, 0xAF, 0x72, 0xFA, 0xDA, 0xA6, 0x78, 0xF1, 0xD6, 0xAB, 0x76, 0xFE],
   bytes [0xB6, 0x92, 0xCF, 0x0B, 0x64, 0x3D, 0xBD, 0xF1, 0xBE, 0x9B, 0xC5, 0x00, 0x68, 0x30, 0xB3, 0xFE],
   bytes [0xB6, 0xFF, 0x74, 0x4E, 0xD2, 0xC2, 0xC9, 0xBF, 0x6C, 0x59, 0x0C, 0xBF, 0x04, 0x69, 0xBF, 0x41],
   bytes [0x47, 0xF7, 0xF7, 0xBC, 0x95, 0x35, 0x3E, 0x03, 0xF9, 0x6C, 0x32, 0xBC, 0xFD, 0x05, 0x8D, 0xFD],
   bytes [0x3C, 0xAA, 0xA3, 0xE8, 0xA9, 0x9F, 0x9D, 0xEB, 0x50, 0xF3, 0xAF, 0x57, 0xAD, 0xF6, 0x22, 0xAA],
   bytes [0x5E, 0x39, 0x0F, 0x7D, 0xF7, 0xA6, 0x92, 0x96, 0xA7, 0x55, 0x3D, 0xC1, 0x0A, 0xA3, 0x1F, 0x6B],
   bytes [0x14, 0xF9, 0x70, 0x1A, 0xE3, 0x5F, 0xE2, 0x8C, 0x44, 0x0A, 0xDF, 0x4D, 0x4E, 0xA9, 0xC0, 0x26],
   bytes [0x47, 0x43, 0x87, 0x35, 0xA4, 0x1C, 0x65, 0xB9, 0xE0, 0x16, 0xBA, 0xF4, 0xAE, 0xBF, 0x7A, 0xD2],
   bytes [0x54, 0x99, 0x32, 0xD1, 0xF0, 0x85, 0x57, 0x68, 0x10, 0x93, 0xED, 0x9C, 0xBE, 0x2C, 0x97, 0x4E],
   bytes [0x13, 0x11, 0x1D, 0x7F, 0xE3, 0x94, 0x4A, 0x17, 0xF3, 0x07, 0xA7, 0x8B, 0x4D, 0x2B, 0x30, 0xC5]]

/-- The states after AddRoundKey(0) to AddRoundKey(10) of FIPS-197 C.1, column by column; the last row is A-1. -/
def fipsStates : List (List Byte) :=
  [bytes [0x00, 0x10, 0x20, 0x30, 0x40, 0x50, 0x60, 0x70, 0x80, 0x90, 0xA0, 0xB0, 0xC0, 0xD0, 0xE0, 0xF0],
   bytes [0x89, 0xD8, 0x10, 0xE8, 0x85, 0x5A, 0xCE, 0x68, 0x2D, 0x18, 0x43, 0xD8, 0xCB, 0x12, 0x8F, 0xE4],
   bytes [0x49, 0x15, 0x59, 0x8F, 0x55, 0xE5, 0xD7, 0xA0, 0xDA, 0xCA, 0x94, 0xFA, 0x1F, 0x0A, 0x63, 0xF7],
   bytes [0xFA, 0x63, 0x6A, 0x28, 0x25, 0xB3, 0x39, 0xC9, 0x40, 0x66, 0x8A, 0x31, 0x57, 0x24, 0x4D, 0x17],
   bytes [0x24, 0x72, 0x40, 0x23, 0x69, 0x66, 0xB3, 0xFA, 0x6E, 0xD2, 0x75, 0x32, 0x88, 0x42, 0x5B, 0x6C],
   bytes [0xC8, 0x16, 0x77, 0xBC, 0x9B, 0x7A, 0xC9, 0x3B, 0x25, 0x02, 0x79, 0x92, 0xB0, 0x26, 0x19, 0x96],
   bytes [0xC6, 0x2F, 0xE1, 0x09, 0xF7, 0x5E, 0xED, 0xC3, 0xCC, 0x79, 0x39, 0x5D, 0x84, 0xF9, 0xCF, 0x5D],
   bytes [0xD1, 0x87, 0x6C, 0x0F, 0x79, 0xC4, 0x30, 0x0A, 0xB4, 0x55, 0x94, 0xAD, 0xD6, 0x6F, 0xF4, 0x1F],
   bytes [0xFD, 0xE3, 0xBA, 0xD2, 0x05, 0xE5, 0xD0, 0xD7, 0x35, 0x47, 0x96, 0x4E, 0xF1, 0xFE, 0x37, 0xF1],
   bytes [0xBD, 0x6E, 0x7C, 0x3D, 0xF2, 0xB5, 0x77, 0x9E, 0x0B, 0x61, 0x21, 0x6E, 0x8B, 0x10, 0xB6, 0x89],
   bytes [0x69, 0xC4, 0xE0, 0xD8, 0x6A, 0x7B, 0x04, 0x30, 0xD8, 0xCD, 0xB7, 0x80, 0x70, 0xB4, 0xC5, 0x5A]]

/-- The tables are those the rules give, and 0x53 has the inverse 0xCA modulo 0x11B. -/
theorem witness_AesCipherFollowsTheRules :
    keyWords (bytes (List.range 16)) (fun i r => (fipsWords.getD (i / 4) []).getD (4 * (i % 4) + r) 0#8) ∧
      cipherStates (bytes [0x00, 0x11, 0x22, 0x33, 0x44, 0x55, 0x66, 0x77, 0x88, 0x99, 0xAA, 0xBB, 0xCC, 0xDD, 0xEE, 0xFF])
        (fun i r => (fipsWords.getD (i / 4) []).getD (4 * (i % 4) + r) 0#8)
        (fun n r c => (fipsStates.getD n []).getD (r + 4 * c) 0#8) ∧
      aesMul 0x53#8 0xCA#8 = 1#8 := by
  unfold keyWords cipherStates
  decide +kernel

/-- Length 208, length 207 without a key, length 207 with one. -/
theorem witness_AesChecksLengthThenKey :
    207 < (keyed 208).aesLen.toNat ∧
      (({ keyed 207 with keyValid := false }).aesLen.toNat ≤ 207 ∧ ({ keyed 207 with keyValid := false }).keyValid = false) ∧
      (keyed 207).aesLen.toNat ≤ 207 ∧ (keyed 207).keyValid = true ∧ ∃ t, exec .aesGcmEnc (keyed 207) = .next t :=
  ⟨by decide, by decide, by decide, by decide, _, rfl⟩

theorem witness_AesCtrEncrypts : (keyed 207).aesLen.toNat ≤ 207 ∧ (keyed 207).keyValid = true ∧ 206 < (keyed 207).aesLen.toNat := by
  decide

/-- The command's hypotheses; a GHASH input of two blocks; and the rounds of mul128(0, 0). -/
theorem witness_AesGcmEncryptsAndTags :
    ((keyed 207).aesLen.toNat ≤ 207 ∧ (keyed 207).keyValid = true ∧ 206 < (keyed 207).aesLen.toNat ∧
        ∃ h j0, isGcmStart (group16Bytes (keyed 207).keyState) (group16Bytes (keyed 207).iv) h j0) ∧
      (zeroBlock.length % 16 = 0 ∧ zeroBlock.length = 16) ∧ mulRounds 0#128 0#128 (fun _ => 0#128) (fun _ => 0#128) :=
  ⟨⟨by decide, by decide, by decide, _, _, rfl, rfl⟩, by decide, rfl, rfl, fun _ _ => ⟨by simp, by simp⟩⟩

/-- The tag of M-2, and the tag 0. -/
theorem witness_AesGcmDecryptsOnlyAuthentic :
    ∃ h j0, isGcmStart (group16Bytes gcmM2.keyState) (group16Bytes gcmM2.iv) h j0 ∧
      (gcmM2.aesLen.toNat ≤ 207 ∧ gcmM2.keyValid = true ∧
        group16Bytes gcmM2.tag = gcmTagOf (group16Bytes gcmM2.keyState) h j0 (bufSlice .adata 0 1 gcmM2)) ∧
      ({ gcmM2 with tag := zero16 }).aesLen.toNat ≤ 207 ∧ ({ gcmM2 with tag := zero16 }).keyValid = true ∧
        group16Bytes ({ gcmM2 with tag := zero16 }).tag ≠
          gcmTagOf (group16Bytes gcmM2.keyState) h j0 (bufSlice .adata 0 1 { gcmM2 with tag := zero16 }) :=
  ⟨0xC6A13B37878F5B826F4F8162A1C8D879#128, 0x5B6B120829CB52C34E04EA2B50759759#128, ⟨by decide +kernel, by decide +kernel⟩,
    by decide +kernel⟩

theorem witness_AesGcmRoundTrip : (keyed 207).aesLen.toNat ≤ 207 ∧ (keyed 207).keyValid = true := by decide

/-- CS_LEN 6 and 7. -/
theorem witness_Ax25AddrPacksTheCallSign :
    (({ State.reset with addrCfg := 6#9 }).addrCfg.extractLsb' 0 4).toNat ≤ 6 ∧
      6 < (({ State.reset with addrCfg := 7#9 }).addrCfg.extractLsb' 0 4).toNat := by decide

theorem witness_Ax25FrameUBuildsTheFrame : (2#2 : BitVec 2) ≠ 3#2 ∧ (3#2 : BitVec 2) = 3#2 := by decide

/-- The largest frame, all ones between the flags (S-13). -/
def onesFrame : State := inUf (flagByte :: (List.replicate 274 0xFF#8 ++ [flagByte]))

/-- UF_LEN 1 and 277; an empty body against a limit of 1; the largest body, whose stuffed frame is exactly 331 bytes. -/
theorem witness_Ax25StuffWritesTheStuffedFrame :
    (({ State.reset with ufLen := 1#9 }).ufLen.toNat < 2 ∧ 276 < ({ State.reset with ufLen := 277#9 }).ufLen.toNat) ∧
      (2 ≤ ({ State.reset with ufLen := 2#9, txLimit := 1#9 }).ufLen.toNat ∧
        min ({ State.reset with ufLen := 2#9, txLimit := 1#9 }).txLimit.toNat 331 <
          (stuffFrame (bufSlice .uf 1 1 { State.reset with ufLen := 2#9, txLimit := 1#9 })).length) ∧
      onesFrame.ufLen.toNat = 276 ∧
        (stuffFrame (bufSlice .uf 1 (onesFrame.ufLen.toNat - 1) onesFrame)).length = min onesFrame.txLimit.toNat 331 ∧
      (¬fiveOnes (List.replicate 4 true) ∧ ¬fiveOnes ([true, false] ++ List.replicate 4 true)) := by
  decide +kernel

/-- RX_LEN 1 and 332; D-9 and D-10; D-5; D-13; D-1 and D-14. -/
theorem witness_Ax25UnstuffRebuildsTheFrame :
    (({ State.reset with rxLen := 1#9 }).rxLen.toNat < 2 ∧ 331 < ({ State.reset with rxLen := 332#9 }).rxLen.toNat) ∧
      (bufByte .rx 2 (inRx (bytes [0x7E, 0x00, 0x7D])) ≠ 0x7E#8 ∧ bufByte .rx 0 (inRx (bytes [0x7D, 0x00, 0x7E])) ≠ 0x7E#8) ∧
      unstuffBits (bitsLSB (bufSlice .rx 1 2 (inRx (bytes [0x7E, 0x3F, 0x7E])))) = none ∧
      ((unstuffBits (bitsLSB (bufSlice .rx 1 276 (inRx (flagByte :: (List.replicate 275 0#8 ++ [flagByte])))))).map
        fun out => out.length / 8 + 2) = some 277 ∧
      ((unstuffBits (bitsLSB (bufSlice .rx 1 275 (inRx (flagByte :: (List.replicate 274 0#8 ++ [flagByte])))))).map
        fun out => out.length / 8 + 2) = some 276 ∧
      unstuffBits (bitsLSB (bufSlice .rx 1 1 (inRx (bytes [0x7E, 0x7E])))) = some [] ∧
      (¬fiveOnes (List.replicate 4 true) ∧ ¬fiveOnes ([true, false] ++ List.replicate 4 true)) := by
  decide +kernel

theorem witness_UnstuffUndoesStuff :
    (onesFrame.ufLen.toNat = 276 ∧ bufByte .uf 0 onesFrame = 0x7E#8 ∧ bufByte .uf 275 onesFrame = 0x7E#8 ∧
        (stuffFrame (bufSlice .uf 1 275 onesFrame)).length ≤ onesFrame.txLimit.toNat) ∧
      (∃ t r : State, exec .ax25Stuff (inUf (bytes [0x7E, 0x7E])) = .next t ∧ r.rxLen = t.txLen ∧
        bufSlice .rx 0 t.txLen.toNat r = bufSlice .tx 0 t.txLen.toNat t) :=
  ⟨by decide +kernel, _, inRx (bytes [0x7E, 0x7E]), rfl, by decide +kernel, by decide +kernel⟩

/-- UF_LEN 19; V-13 and a bad last byte; a changed FCS byte, in the lower and in the upper one. -/
theorem witness_Ax25RecvChecksTheFrame :
    (({ State.reset with ufLen := 19#9 }).ufLen.toNat ≠ 20 ∧ ({ State.reset with ufLen := 19#9 }).ufLen.toNat ≠ 276) ∧
      (inUf (uFrameOf [0x13, 0xF0, 0x1B, 0xFA])).ufLen.toNat = 20 ∧
      (bufByte .uf 0 { State.reset with ufLen := 20#9 } ≠ 0x7E#8 ∧ bufByte .uf 275 { State.reset with ufLen := 276#9 } ≠ 0x7E#8) ∧
      (bufByte .uf 0 (inUf (uFrameOf [0x13, 0xF0, 0x1B, 0xFA])) = 0x7E#8 ∧
        bufByte .uf 19 (inUf (uFrameOf [0x13, 0xF0, 0x1B, 0xFA])) = 0x7E#8 ∧
        bufByte .uf 17 (inUf (uFrameOf [0x13, 0xF0, 0x1B, 0xFA])) ≠
          (fcs (bufSlice .uf 1 17 (inUf (uFrameOf [0x13, 0xF0, 0x1B, 0xFA])))).setWidth 8) ∧
      bufByte .uf 18 (inUf (uFrameOf [0x13, 0xF0, 0x1A, 0xFB])) ≠
        (fcs (bufSlice .uf 1 17 (inUf (uFrameOf [0x13, 0xF0, 0x1A, 0xFB]))) >>> 8).setWidth 8 := by decide +kernel

/-- The shared hypotheses of a received I-frame. -/
abbrev iFrameHolds (s : State) : Prop :=
  s.ufLen = 276#9 ∧ bufByte .uf 0 s = 0x7E#8 ∧ bufByte .uf 275 s = 0x7E#8 ∧
    bufByte .uf 273 s = (fcs (bufSlice .uf 1 273 s)).setWidth 8 ∧ bufByte .uf 274 s = (fcs (bufSlice .uf 1 273 s) >>> 8).setWidth 8

/-- V-11, V-12 and a good frame, each with a valid FCS. -/
theorem witness_Ax25RecvTakesAnIFrame :
    (iFrameHolds (inUf (iFrameOf 0x01#8 0#8 0xF0#8 0xED#8 0xE6#8)) ∧
        (bufByte .uf 15 (inUf (iFrameOf 0x01#8 0#8 0xF0#8 0xED#8 0xE6#8))).getLsbD 0 = true) ∧
      (iFrameHolds (inUf (iFrameOf 0#8 0#8 0xCC#8 0x04#8 0x26#8)) ∧
        (bufByte .uf 15 (inUf (iFrameOf 0#8 0#8 0xCC#8 0x04#8 0x26#8))).getLsbD 0 = false ∧
        bufByte .uf 17 (inUf (iFrameOf 0#8 0#8 0xCC#8 0x04#8 0x26#8)) ≠ 0xF0#8) ∧
      iFrameHolds (inUf (iFrameOf 0#8 0#8 0xF0#8 0xC2#8 0xAE#8)) ∧
        (bufByte .uf 15 (inUf (iFrameOf 0#8 0#8 0xF0#8 0xC2#8 0xAE#8))).getLsbD 0 = false ∧
        bufByte .uf 17 (inUf (iFrameOf 0#8 0#8 0xF0#8 0xC2#8 0xAE#8)) = 0xF0#8 := by decide +kernel

/-- The shared hypotheses of a received U-frame. -/
abbrev uFrameHolds (s : State) : Prop :=
  s.ufLen = 20#9 ∧ bufByte .uf 0 s = 0x7E#8 ∧ bufByte .uf 19 s = 0x7E#8 ∧
    bufByte .uf 17 s = (fcs (bufSlice .uf 1 17 s)).setWidth 8 ∧ bufByte .uf 18 s = (fcs (bufSlice .uf 1 17 s) >>> 8).setWidth 8

/-- V-8 (frame type), V-9 (PID), V-7 (UCMD) and V-10 (accepted with bits 7:5 set). -/
theorem witness_Ax25RecvTakesAUFrame :
    (uFrameHolds (inUf (uFrameOf [0x01, 0xF0, 0x3B, 0x5C])) ∧
        (bufByte .uf 15 (inUf (uFrameOf [0x01, 0xF0, 0x3B, 0x5C]))).extractLsb' 0 2 ≠ 3#2) ∧
      (uFrameHolds (inUf (uFrameOf [0x17, 0xCF, 0x0E, 0x54])) ∧
        (bufByte .uf 15 (inUf (uFrameOf [0x17, 0xCF, 0x0E, 0x54]))).extractLsb' 0 2 = 3#2 ∧
        bufByte .uf 16 (inUf (uFrameOf [0x17, 0xCF, 0x0E, 0x54])) ≠ 0xF0#8) ∧
      (uFrameHolds (inUf (uFrameOf [0x0F, 0xF0, 0x2B, 0xC6])) ∧
        bufByte .uf 16 (inUf (uFrameOf [0x0F, 0xF0, 0x2B, 0xC6])) = 0xF0#8 ∧
        (bufByte .uf 15 (inUf (uFrameOf [0x0F, 0xF0, 0x2B, 0xC6]))).extractLsb' 2 2 = 3#2) ∧
      uFrameHolds (inUf (uFrameOf [0xEB, 0xF0, 0xD2, 0x48])) ∧
        bufByte .uf 16 (inUf (uFrameOf [0xEB, 0xF0, 0xD2, 0x48])) = 0xF0#8 ∧
        (bufByte .uf 15 (inUf (uFrameOf [0xEB, 0xF0, 0xD2, 0x48]))).extractLsb' 2 2 ≠ 3#2 := by decide +kernel

theorem witness_RecvAcceptsTheBuiltUFrame : (0#2 : BitVec 2) ≠ 3#2 := by decide

theorem witness_StuffedLengthBound :
    (List.replicate 274 0xFF#8).length ≤ 274 ∧ (List.replicate 18 0xFF#8).length ≤ 18 :=
  ⟨Nat.le_of_eq List.length_replicate, Nat.le_of_eq List.length_replicate⟩

theorem witness_ResetState : (0x03C#12 : BitVec 12).toNat < 0x100 ∧ (0x0FF#12 : BitVec 12).toNat < 0x100 := by decide

end Sys2Proof.Tests
end

section
/-! PROOFS. What a completed command can be, said once: an error, or the commit of the one state its rule gives. From it follow the
commands' frames (10_state.md R40 to R68) and, with what a turn of the host can do, the invariant of Safety.lean. -/

namespace Sys2Proof.Proofs

open Sys2Proof.Machine Sys2Proof.Laws

/-! ## What a successful command commits -/

/-- `Commits s i u`: the command `i`, started in `s`, passes all its checks, and `u` is `s` with its outputs written, before
`complete()` sets SEQ, ERRCODE and DONE (R291). One constructor per command, and one per branch that ends well; its hypotheses are
the checks passed. `exec_cases` ties it to `exec`. -/
inductive Commits (s : State) : Instr → State → Prop
  | rsInit : Commits s .rsInit { s with rsReady := true }
  | rsRelease : Commits s .rsRelease { s with rsReady := false }
  | rsEncode (ready : s.rsReady = true) : Commits s .rsEncode (bufStore .cw (rsEnc (bufAll .msg s)) s)
  | rsDecode (msg : List Byte) (n : Nat) (ready : s.rsReady = true) (decoded : rsDec (bufAll .cw s) = some (msg, n)) :
      Commits s .rsDecode { bufStore .msg msg s with nCorr := BitVec.ofNat 5 n }
  | aesSetkey : Commits s .aesSetkey { s with keyState := s.keyIn, keyValid := true }
  | aesCtr (fits : aesN s ≤ aesCap) (key : s.keyValid = true) :
      Commits s .aesCtr (bufStore .adata (aesCtrMode (keyBytes s) (ivBytes s) (aesData s)) s)
  | aesGcmEnc (fits : aesN s ≤ aesCap) (key : s.keyValid = true) :
      Commits s .aesGcmEnc
        { bufStore .adata (gcmEnc (keyBytes s) (ivBytes s) (aesData s)).1 s with
          tag := group16Of (gcmEnc (keyBytes s) (ivBytes s) (aesData s)).2 }
  | aesGcmDec (p : List Byte) (fits : aesN s ≤ aesCap) (key : s.keyValid = true)
      (authentic : gcmDec (keyBytes s) (ivBytes s) (aesData s) (tagBytes s) = some p) :
      Commits s .aesGcmDec (bufStore .adata p s)
  | ax25AddrDest (fits : csLen s ≤ callsignMax) :
      Commits s (.ax25Addr .dest)
        { s with dest := group7Of (addrField (callSign s) (csLen s) (ssidField s) (cBit s) false) }
  | ax25AddrSrc (fits : csLen s ≤ callsignMax) :
      Commits s (.ax25Addr .src)
        { s with src := group7Of (addrField (callSign s) (csLen s) (ssidField s) (cBit s) true) }
  | ax25FrameI :
      Commits s .ax25FrameI
        { bufStore .uf (iFrame (destAddr s) (srcAddr s) (nsField s) (pBit s) (nrField s) (bufAll .cw s)) s with
          ufLen := BitVec.ofNat 9 ufILen }
  | ax25FrameU (ucmd : BitVec 2) (pf : Bool) (legal : ucmd ≠ 3#2) :
      Commits s (.ax25FrameU ucmd pf)
        { bufStore .uf (uFrame (destAddr s) (srcAddr s) ucmd pf) s with ufLen := BitVec.ofNat 9 ufULen }
  | ax25Stuff (length : 2 ≤ s.ufLen.toNat ∧ s.ufLen.toNat ≤ ufILen)
      (fits : (stuffedUf s).length ≤ min s.txLimit.toNat frameCap) :
      Commits s .ax25Stuff { bufStore .tx (stuffedUf s) s with txLen := BitVec.ofNat 9 (stuffedUf s).length }
  | ax25Unstuff (body : List Byte) (length : 2 ≤ s.rxLen.toNat ∧ s.rxLen.toNat ≤ frameCap)
      (flags : bufByte .rx 0 s = flagByte ∧ bufByte .rx (s.rxLen.toNat - 1) s = flagByte)
      (unstuffed : unstuffedRx s = some body) (fits : body.length + 2 ≤ ufILen) :
      Commits s .ax25Unstuff
        { bufStore .uf (flagByte :: (body ++ [flagByte])) s with ufLen := BitVec.ofNat 9 (body.length + 2) }
  | ax25RecvI (length : s.ufLen.toNat = ufILen) (isIFrame : (bufByte .uf 15 s).getLsbD 0 = false)
      (pid : bufByte .uf 17 s = pidByte) :
      Commits s .ax25Recv
        (storeRxAddrs s
          { bufStore .cw (bufSlice .uf 18 273 s) s with
            rxi := rxInfo false 0#2 ((bufByte .uf 16 s).getLsbD 0) (bufByte .uf 15 s) (bufByte .uf 16 s) })
  | ax25RecvU (length : s.ufLen.toNat = ufULen) (isUFrame : (bufByte .uf 15 s).extractLsb' 0 2 = 0b11#2)
      (pid : bufByte .uf 16 s = pidByte) (legal : (bufByte .uf 15 s).extractLsb' 2 2 ≠ 3#2) :
      Commits s .ax25Recv
        (storeRxAddrs s
          { s with
            rxi := rxInfo true ((bufByte .uf 15 s).extractLsb' 2 2) ((bufByte .uf 15 s).getLsbD 4) (bufByte .uf 15 s) 0#8 })

/-- R290, R291: `t` is a completion of `i` from `s`: with an error, which changes only STATUS and SEQ, or with ERR_NONE over what `i`
commits. -/
def Completes (s : State) (i : Instr) (t : State) : Prop :=
  (∃ c, c ≠ .none ∧ t = finish c s) ∨ ∃ u, Commits s i u ∧ t = finish .none u

theorem Completes.of_raiseError {s t : State} {i : Instr} {c : ErrCode} (hc : c ≠ .none) (h : raiseError c s = .next t) :
    Completes s i t := .inl ⟨c, hc, (raiseError_eq_next c s t).mp h⟩

theorem Completes.of_completeOk {s t u : State} {i : Instr} (hu : Commits s i u) (h : completeOk u = .next t) :
    Completes s i t := .inr ⟨u, hu, (completeOk_eq_next u t).mp h⟩

/-! ### Each command completes -/

theorem execRsEncode_completes {s t : State} (h : execRsEncode s = .next t) : Completes s .rsEncode t := by
  unfold execRsEncode at h
  split at h
  · exact .of_raiseError (by decide) h
  · next ready => exact .of_completeOk (.rsEncode (by simpa using ready)) h

theorem execRsDecode_completes {s t : State} (h : execRsDecode s = .next t) : Completes s .rsDecode t := by
  unfold execRsDecode at h
  split at h
  · exact .of_raiseError (by decide) h
  · next ready =>
    split at h
    · exact .of_raiseError (by decide) h
    · next msg n decoded => exact .of_completeOk (.rsDecode msg n (by simpa using ready) decoded) h

/-- R191, R308: the two checks the data commands share, once for all three. -/
theorem aesChecked_completes {s t : State} {i : Instr} {run : Host.Outcome State Fault Refusal}
    (h : aesChecked s run = .next t) (hrun : aesN s ≤ aesCap → s.keyValid = true → run = .next t → Completes s i t) :
    Completes s i t := by
  unfold aesChecked at h
  split at h
  · exact .of_raiseError (by decide) h
  · next fits =>
    split at h
    · exact .of_raiseError (by decide) h
    · next key => exact hrun (by omega) (by simpa using key) h

theorem execAesCtr_completes {s t : State} (h : execAesCtr s = .next t) : Completes s .aesCtr t :=
  aesChecked_completes h fun fits key h => .of_completeOk (.aesCtr fits key) h

theorem execAesGcmEnc_completes {s t : State} (h : execAesGcmEnc s = .next t) : Completes s .aesGcmEnc t :=
  aesChecked_completes h fun fits key h => .of_completeOk (.aesGcmEnc fits key) h

theorem execAesGcmDec_completes {s t : State} (h : execAesGcmDec s = .next t) : Completes s .aesGcmDec t := by
  refine aesChecked_completes h fun fits key h => ?_
  split at h
  · exact .of_raiseError (by decide) h
  · next p authentic => exact .of_completeOk (.aesGcmDec p fits key authentic) h

theorem execAx25Addr_completes {sel : AddrSel} {s t : State} (h : execAx25Addr sel s = .next t) :
    Completes s (.ax25Addr sel) t := by
  unfold execAx25Addr at h
  split at h
  · exact .of_raiseError (by decide) h
  · next fits =>
    cases sel with
    | dest => exact .of_completeOk (.ax25AddrDest (by omega)) h
    | src => exact .of_completeOk (.ax25AddrSrc (by omega)) h

theorem execAx25FrameU_completes {ucmd : BitVec 2} {pf : Bool} {s t : State} (h : execAx25FrameU ucmd pf s = .next t) :
    Completes s (.ax25FrameU ucmd pf) t := by
  unfold execAx25FrameU at h
  split at h
  · exact .of_raiseError (by decide) h
  · next legal => exact .of_completeOk (.ax25FrameU ucmd pf legal) h

theorem execAx25Stuff_completes {s t : State} (h : execAx25Stuff s = .next t) : Completes s .ax25Stuff t := by
  unfold execAx25Stuff at h
  split at h
  · exact .of_raiseError (by decide) h
  · next length =>
    split at h
    · exact .of_raiseError (by decide) h
    · next fits => exact .of_completeOk (.ax25Stuff (by omega) (by omega)) h

theorem execAx25Unstuff_completes {s t : State} (h : execAx25Unstuff s = .next t) : Completes s .ax25Unstuff t := by
  unfold execAx25Unstuff at h
  split at h
  · exact .of_raiseError (by decide) h
  · next length =>
    split at h
    · exact .of_raiseError (by decide) h
    · next flags =>
      split at h
      · exact .of_raiseError (by decide) h
      · next body unstuffed =>
        split at h
        · exact .of_raiseError (by decide) h
        · next fits =>
          exact .of_completeOk (.ax25Unstuff body (by omega) (by simpa using flags) unstuffed (by omega)) h

theorem recvIFrame_completes {s t : State} (length : s.ufLen.toNat = ufILen) (h : recvIFrame s = .next t) :
    Completes s .ax25Recv t := by
  unfold recvIFrame at h
  split at h
  · exact .of_raiseError (by decide) h
  · next isIFrame =>
    split at h
    · exact .of_raiseError (by decide) h
    · next pid => exact .of_completeOk (.ax25RecvI length (by simpa using isIFrame) (by simpa using pid)) h

theorem recvUFrame_completes {s t : State} (length : s.ufLen.toNat = ufULen) (h : recvUFrame s = .next t) :
    Completes s .ax25Recv t := by
  unfold recvUFrame at h
  split at h
  · exact .of_raiseError (by decide) h
  · next isUFrame =>
    split at h
    · exact .of_raiseError (by decide) h
    · next pid =>
      split at h
      · exact .of_raiseError (by decide) h
      · next legal => exact .of_completeOk (.ax25RecvU length (by simpa using isUFrame) (by simpa using pid) legal) h

theorem execAx25Recv_completes {s t : State} (h : execAx25Recv s = .next t) : Completes s .ax25Recv t := by
  unfold execAx25Recv at h
  dsimp only at h
  split at h
  · exact .of_raiseError (by decide) h
  · next length =>
    split at h
    · exact .of_raiseError (by decide) h
    · split at h
      · exact .of_raiseError (by decide) h
      · split at h
        · next isI => exact recvIFrame_completes isI h
        · next notI => exact recvUFrame_completes (by omega) h

/-- R290, R291: all a command can do. -/
theorem exec_cases {i : Instr} {s t : State} (h : exec i s = .next t) : Completes s i t := by
  cases i with
  | rsInit => exact .of_completeOk .rsInit h
  | rsRelease => exact .of_completeOk .rsRelease h
  | rsEncode => exact execRsEncode_completes h
  | rsDecode => exact execRsDecode_completes h
  | aesSetkey => exact .of_completeOk .aesSetkey h
  | aesCtr => exact execAesCtr_completes h
  | aesGcmEnc => exact execAesGcmEnc_completes h
  | aesGcmDec => exact execAesGcmDec_completes h
  | ax25Addr sel => exact execAx25Addr_completes h
  | ax25FrameI => exact .of_completeOk .ax25FrameI h
  | ax25FrameU ucmd pf => exact execAx25FrameU_completes h
  | ax25Stuff => exact execAx25Stuff_completes h
  | ax25Unstuff => exact execAx25Unstuff_completes h
  | ax25Recv => exact execAx25Recv_completes h

/-! ### What fits: the lengths of the outputs, and the number of corrections -/

/-- Changing one byte moves a word by at most one (R147). -/
theorem hamming_set_le (a b : List Byte) (i : Nat) (x : Byte) : hamming a (b.set i x) ≤ hamming a b + 1 := by
  unfold hamming
  induction a generalizing b i with
  | nil => simp
  | cons y a ih =>
    cases b with
    | nil => simp
    | cons z b =>
      cases i with
      | zero =>
        simp only [List.set_cons_zero, List.zipWith_cons_cons, List.sum_cons]
        split <;> omega
      | succ i =>
        have hrest := ih b i
        simp only [List.set_cons_succ, List.zipWith_cons_cons, List.sum_cons]
        omega

theorem hamming_self (a : List Byte) : hamming a a = 0 := by simp [hamming]

/-- R152: a correction changes at most as many bytes as it is given positions. -/
theorem hamming_correctAt_le {om lam : List Byte} {ps : List Nat} {a b c : List Byte}
    (h : correctAt om lam ps b = some c) : hamming a c ≤ hamming a b + ps.length := by
  induction ps generalizing b with
  | nil =>
    simp only [correctAt, Option.some.injEq] at h
    simp [h]
  | cons p ps ih =>
    unfold correctAt at h
    split at h
    · simp at h
    · next e _ =>
      have hrest := ih h
      have hone := hamming_set_le a b (254 - p) (b.getD (254 - p) 0#8 ^^^ e)
      simp only [List.length_cons]
      omega

/-- R148, R153: what the decoder answers: a message no longer than MSG, and at most t = 16 corrections. -/
theorem rsDec_some {r msg : List Byte} {n : Nat} (h : rsDec r = some (msg, n)) : msg.length ≤ rsK ∧ n ≤ rsT := by
  unfold rsDec at h
  dsimp only at h
  split at h
  · simp only [Option.some.injEq, Prod.mk.injEq] at h
    obtain ⟨rfl, rfl⟩ := h
    simp
  · split at h
    · simp at h
    · next fewErrors =>
      split at h
      · simp at h
      · next positions =>
        split at h
        · simp at h
        · next c corrected =>
          split at h
          · simp only [Option.some.injEq, Prod.mk.injEq] at h
            obtain ⟨rfl, rfl⟩ := h
            have hdist := hamming_correctAt_le (a := r) corrected
            rw [hamming_self] at hdist
            simp only [ne_eq, Decidable.not_not] at positions
            exact ⟨by simp, by omega⟩
          · simp at h

@[simp] theorem aesData_length (s : State) : (aesData s).length = aesN s := by simp [aesData]

/-- R191: data that pass the length check fit ADATA. -/
theorem aesData_length_le {s : State} (fits : aesN s ≤ aesCap) : (aesData s).length ≤ bufCap .adata :=
  (aesData_length s).trans_le fits

@[simp] theorem gcmCrypt_length (k iv d : List Byte) : (gcmCrypt k iv d).length = d.length := by simp [gcmCrypt, gctr]

/-- R189: what GCM decryption releases is as long as the ciphertext. -/
theorem gcmDec_length {k iv c t p : List Byte} (h : gcmDec k iv c t = some p) : p.length = c.length := by
  unfold gcmDec at h
  split at h
  · simp at h
  · simp only [Option.some.injEq] at h
    simp [← h]

theorem flagged_length (body : List Byte) : (flagByte :: (body ++ [flagByte])).length = body.length + 2 := by simp

/-! ### The buffers a command writes -/

/-- R63 to R68: the one buffer a command may write, none for the commands that write only registers. -/
def writtenBuffer : Instr → Option Buffer
  | .rsEncode | .ax25Recv => some .cw
  | .rsDecode => some .msg
  | .aesCtr | .aesGcmEnc | .aesGcmDec => some .adata
  | .ax25FrameI | .ax25FrameU _ _ | .ax25Unstuff => some .uf
  | .ax25Stuff => some .tx
  | .rsInit | .rsRelease | .aesSetkey | .ax25Addr _ => none

/-- Memory is as it was, or holds a store into the command's own buffer that fits it. -/
def StoresOnlyIn (b : Option Buffer) (s u : State) : Prop :=
  u.mem = s.mem ∨ ∃ c l, b = some c ∧ l.length ≤ bufCap c ∧ u.mem = (bufStore c l s).mem

theorem StoresOnlyIn.store {s u : State} (c : Buffer) (l : List Byte) (fits : l.length ≤ bufCap c)
    (hmem : u.mem = (bufStore c l s).mem) : StoresOnlyIn (some c) s u := .inr ⟨c, l, rfl, fits, hmem⟩

theorem Commits.storesOnlyIn {s u : State} {i : Instr} (h : Commits s i u) : StoresOnlyIn (writtenBuffer i) s u := by
  cases h with
  | rsInit | rsRelease | aesSetkey | ax25AddrDest | ax25AddrSrc | ax25RecvU => exact .inl rfl
  | rsEncode => exact .store .cw _ (by simp [bufCap]) rfl
  | rsDecode msg n _ decoded => exact .store .msg msg (rsDec_some decoded).1 rfl
  | aesCtr fits => exact .store .adata _ ((ctrWith_length _ _ _ _).trans_le (aesData_length_le fits)) rfl
  | aesGcmEnc fits => exact .store .adata _ ((gcmCrypt_length _ _ _).trans_le (aesData_length_le fits)) rfl
  | aesGcmDec p fits _ authentic => exact .store .adata p ((gcmDec_length authentic).trans_le (aesData_length_le fits)) rfl
  | ax25FrameI => exact .store .uf _ (by simp [iFrame_length, destAddr, srcAddr, bufCap]) rfl
  | ax25FrameU => exact .store .uf _ (by simp [uFrame_length, destAddr, srcAddr, bufCap]) rfl
  | ax25Stuff _ fits => exact .store .tx _ (le_trans fits (min_le_right _ _)) rfl
  | ax25Unstuff body _ _ _ fits => exact .store .uf _ ((flagged_length body).trans_le fits) rfl
  | ax25RecvI => exact .store .cw _ (by simp [bufCap]) rfl

/-- R63 to R68: a command stores nothing but into its own buffer. -/
theorem exec_storesOnlyIn {i : Instr} {s t : State} (h : exec i s = .next t) : StoresOnlyIn (writtenBuffer i) s t := by
  rcases exec_cases h with ⟨c, -, rfl⟩ | ⟨u, hu, rfl⟩
  · exact .inl rfl
  · exact hu.storesOnlyIn

theorem StoresOnlyIn.memWf {b : Option Buffer} {s u : State} (h : StoresOnlyIn b s u) (hs : memWf s.mem = true) :
    memWf u.mem = true := by
  rcases h with hmem | ⟨c, l, -, fits, hmem⟩
  · rwa [hmem]
  · rw [hmem]
    exact memWf_bufStore c l s hs fits

/-- Every other buffer keeps all its bytes (R32: buffers do not overlap). -/
theorem StoresOnlyIn.bufAll_eq {w : Option Buffer} {s u : State} (h : StoresOnlyIn w s u) (b : Buffer) (hb : w ≠ some b) :
    bufAll b u = bufAll b s := by
  rcases h with hmem | ⟨c, l, rfl, fits, hmem⟩
  · simp only [bufAll, hmem]
  · have hne : c ≠ b := fun e => hb (e ▸ rfl)
    have hslice := bufSlice_bufStore_other c b l s 0 (bufCap b) hne fits le_rfl
    simpa [bufAll, bufSlice, hmem] using hslice

/-! ## The commands' frames -/

/-- Settles O25: a buffer changes only in the commands that `writtenBuffer` gives it. -/
theorem buffersHaveTheirWriters : Obligations.BuffersHaveTheirWriters := by
  unfold Obligations.BuffersHaveTheirWriters
  intro i s t h
  have frame := (exec_storesOnlyIn h).bufAll_eq
  refine ⟨fun h1 => frame .msg ?_, fun h1 h2 => frame .cw ?_, fun h1 h2 h3 => frame .adata ?_,
    fun h1 h2 h3 => frame .uf ?_, fun h1 => frame .tx ?_⟩ <;>
    cases i <;> simp_all [writtenBuffer]

/-- R43, R44, R47, R50 to R54: no commit touches a register of the host. -/
theorem Commits.hostInputs {s u : State} {i : Instr} (h : Commits s i u) :
    u.cs = s.cs ∧ u.addrCfg = s.addrCfg ∧ u.ictrl = s.ictrl ∧ u.txLimit = s.txLimit ∧ u.rxLen = s.rxLen ∧
      u.aesLen = s.aesLen ∧ u.keyIn = s.keyIn ∧ u.iv = s.iv := by
  cases h <;> exact ⟨rfl, rfl, rfl, rfl, rfl, rfl, rfl, rfl⟩

/-- Settles O23: neither an error nor a commit touches the host's registers, and RX is no command's buffer. -/
theorem commandsLeaveTheHostsInputs : Obligations.CommandsLeaveTheHostsInputs := by
  unfold Obligations.CommandsLeaveTheHostsInputs
  intro i s t h
  have hrx : bufAll .rx t = bufAll .rx s := (exec_storesOnlyIn h).bufAll_eq .rx (by cases i <;> simp [writtenBuffer])
  rcases exec_cases h with ⟨c, -, rfl⟩ | ⟨u, hu, rfl⟩
  · exact ⟨rfl, rfl, rfl, rfl, rfl, rfl, rfl, rfl, hrx⟩
  · obtain ⟨hcs, haddr, hictrl, hlimit, hrxLen, haes, hkey, hiv⟩ := hu.hostInputs
    exact ⟨hcs, haddr, hictrl, hlimit, hrxLen, haes, hkey, hiv, hrx⟩

/-- Settles O24: an error leaves every output register; each commit is looked through for the registers it writes. -/
theorem outputRegistersHaveTheirWriters : Obligations.OutputRegistersHaveTheirWriters := by
  unfold Obligations.OutputRegistersHaveTheirWriters
  intro i s t h
  rcases exec_cases h with ⟨c, -, rfl⟩ | ⟨u, hu, rfl⟩
  · simp
  · cases hu <;> simp

/-- R62: AES_SETKEY commits the staged key, every other command leaves the engine's key. -/
theorem Commits.keyState_eq {s u : State} {i : Instr} (h : Commits s i u) :
    u.keyState = if i = .aesSetkey then s.keyIn else s.keyState := by
  cases h <;> simp

/-- R62: AES_SETKEY raises no error. -/
theorem exec_keyState {i : Instr} {s t : State} (h : exec i s = .next t) :
    t.keyState = if i = .aesSetkey then s.keyIn else s.keyState := by
  by_cases hi : i = .aesSetkey
  · subst hi
    have ht : t = finish .none { s with keyState := s.keyIn, keyValid := true } := (completeOk_eq_next _ t).mp h
    simp [ht]
  · rcases exec_cases h with ⟨c, -, rfl⟩ | ⟨u, hu, rfl⟩
    · simp [hi]
    · exact hu.keyState_eq

end Sys2Proof.Proofs
end

section
/-! PROOFS. The host's accesses to the registers (20_memory.md R83, R86, R87, R89, R90; 10_state.md R30, R33 to R57): each register
is reached at its offset, and what it reads and stores. -/

namespace Sys2Proof.Proofs

open Sys2Proof.Machine Sys2Proof.Laws

/-! ## Reaching a register -/

/-- R30: the offset of a register, as the 12 bits of an access. -/
def regAddr (r : Reg) : BitVec 12 := BitVec.ofNat 12 (regOffset r)

theorem targetOf_regAddr (r : Reg) : targetOf .w4 (regAddr r).toNat = some (.reg r) := by cases r <;> rfl

/-- R30: a register stands at its own offset only. -/
theorem eq_regAddr_of_targetOf {n : BusWidth} {off : BitVec 12} {r : Reg} (h : targetOf n off.toNat = some (.reg r)) :
    off = regAddr r := by
  obtain ⟨-, -, -, hat⟩ := targetOf_reg n off.toNat r h
  obtain ⟨l₁, l₂, hmap, -⟩ := List.lookup_eq_some_iff.mp hat
  have hmem : (off.toNat, r) ∈ regMap := hmap ▸ List.mem_append_right l₁ List.mem_cons_self
  have hoffsets : ∀ p ∈ regMap, p.1 = (regAddr p.2).toNat := by decide
  exact BitVec.eq_of_toNat_eq (hoffsets _ hmem)

/-- R87: whether an access is admitted depends on the state by SEQ alone. -/
theorem admitted_congr {s t : State} (hseq : t.seq = s.seq) (n : BusWidth) (off : Nat) :
    admitted n off t = admitted n off s := by
  unfold admitted busyFlag
  rw [hseq]

/-- R83, R87: a register is reached while idle, CTRL and STATUS at any time. -/
theorem admitted_regAddr {r : Reg} {s : State} (h : s.seq = .idle ∨ openWhileBusy (.reg r) = true) :
    admitted .w4 (regAddr r).toNat s = some (.reg r) := by
  unfold admitted
  rw [targetOf_regAddr]
  rcases h with h | h <;> simp [busyFlag, h]

theorem memRead_regAddr {r : Reg} {s : State} (h : s.seq = .idle ∨ openWhileBusy (.reg r) = true) :
    memRead .w4 (regAddr r) s = (readReg r s, s) := by
  unfold memRead
  rw [admitted_regAddr h]
  rfl

theorem memWrite_regAddr {r : Reg} {s : State} (v : Word) (h : s.seq = .idle ∨ openWhileBusy (.reg r) = true) :
    memWrite .w4 (regAddr r) v s = writeReg r v s := by
  unfold memWrite
  rw [admitted_regAddr h]
  rfl

/-- R89: what a read returns depends on the state by SEQ and by what its target holds. -/
theorem memRead_fst_congr {n : BusWidth} {off : BitVec 12} {s t : State} (hseq : t.seq = s.seq)
    (htarget : ∀ g, targetOf n off.toNat = some g → readTarget n g t = readTarget n g s) :
    (memRead n off t).1 = (memRead n off s).1 := by
  have hadm := admitted_congr hseq n off.toNat
  rcases memRead_cases n off s with ⟨hs, hrs⟩ | ⟨g, hs, hrs⟩ <;>
    rcases memRead_cases n off t with ⟨ht, hrt⟩ | ⟨g', ht, hrt⟩
  · rw [hrs, hrt]
  · simp [hs, ht] at hadm
  · simp [hs, ht] at hadm
  · obtain rfl : g' = g := by simpa [hs, ht] using hadm
    rw [hrs, hrt]
    exact htarget g' (admitted_some n _ s g' hs).1

/-! ## What a register stores -/

/-- R33, R43 to R48, R50 to R52, R54, R55: the read/write registers, each with the mask of the bits it stores. -/
def storedBits : List (Reg × Word) :=
  [(.ctrl, 0x00000001#32), (.csLo, 0xFFFFFFFF#32), (.csHi, 0xFFFFFFFF#32), (.addrCfg, 0x000001FF#32),
   (.dest0, 0xFFFFFFFF#32), (.dest1, 0x00FFFFFF#32), (.src0, 0xFFFFFFFF#32), (.src1, 0x00FFFFFF#32),
   (.ictrl, 0x00007FFF#32), (.ufLen, 0x000001FF#32), (.txLimit, 0x000001FF#32), (.rxLen, 0x000001FF#32),
   (.aesLen, 0x000000FF#32), (.iv0, 0xFFFFFFFF#32), (.iv1, 0xFFFFFFFF#32), (.iv2, 0xFFFFFFFF#32), (.iv3, 0xFFFFFFFF#32),
   (.tag0, 0xFFFFFFFF#32), (.tag1, 0xFFFFFFFF#32), (.tag2, 0xFFFFFFFF#32), (.tag3, 0xFFFFFFFF#32)]

/-- A field of k bits holds the low k bits of what is written, and reads back with zeros above them. -/
theorem setWidth_setWidth_eq_and (v : Word) (k : Nat) (hk : k ≤ 32) :
    (v.setWidth k).setWidth 32 = v &&& BitVec.ofNat 32 (2 ^ k - 1) := by
  apply BitVec.eq_of_toNat_eq
  have hpow : 2 ^ k ≤ 2 ^ 32 := Nat.pow_le_pow_right (by decide) hk
  have hmask : (2 ^ k - 1) % 2 ^ 32 = 2 ^ k - 1 := Nat.mod_eq_of_lt (by omega)
  have hlow : v.toNat % 2 ^ k % 2 ^ 32 = v.toNat % 2 ^ k := Nat.mod_eq_of_lt ((Nat.mod_lt _ (by positivity)).trans_le hpow)
  rw [BitVec.toNat_setWidth, BitVec.toNat_setWidth, BitVec.toNat_and, BitVec.toNat_ofNat, hmask, hlow,
    Nat.and_two_pow_sub_one_eq_mod]

/-- A one-bit field, in the same way. -/
theorem setWidth_ofBool_getLsbD_zero (v : Word) : (BitVec.ofBool (v.getLsbD 0)).setWidth 32 = v &&& 1#32 := by
  have hbit : BitVec.ofBool (v.getLsbD 0) = v.setWidth 1 := by
    apply BitVec.eq_of_getLsbD_eq
    intro i hi
    obtain rfl : i = 0 := by omega
    simp
  rw [hbit]
  exact setWidth_setWidth_eq_and v 1 (by decide)

theorem readReg_writeReg_self (s : State) (v : Word) :
    ∀ p ∈ storedBits, readReg p.1 (writeReg p.1 v s) = v &&& p.2 := by
  have field := setWidth_setWidth_eq_and v
  have whole : v = v &&& 0xFFFFFFFF#32 := BitVec.and_allOnes.symm
  simp only [storedBits, List.forall_mem_cons, List.not_mem_nil, false_implies, implies_true, and_true]
  exact ⟨setWidth_ofBool_getLsbD_zero v, whole, whole, field 9 (by decide), whole, field 24 (by decide), whole,
    field 24 (by decide), field 15 (by decide), field 9 (by decide), field 9 (by decide), field 9 (by decide),
    field 8 (by decide), whole, whole, whole, whole, whole, whole, whole, whole⟩

/-- R90: a write to a register shows in no other register, but that a write to CMD starts a command (R292). -/
theorem readReg_writeReg_of_ne {r w : Reg} (hne : r ≠ w) (hcmd : w ≠ .cmd) (v : Word) (s : State) :
    readReg r (writeReg w v s) = readReg r s := by
  cases w
  case cmd => exact absurd rfl hcmd
  all_goals cases r <;> first | exact absurd rfl hne | rfl

/-- R90: the fields the read/write registers stand for; a write to one of them changes nothing else. -/
theorem writeReg_frame (s : State) (v : Word) : ∀ p ∈ storedBits,
    writeReg p.1 v s =
      { s with
        irqEn := (writeReg p.1 v s).irqEn, cs := (writeReg p.1 v s).cs, addrCfg := (writeReg p.1 v s).addrCfg,
        dest := (writeReg p.1 v s).dest, src := (writeReg p.1 v s).src, ictrl := (writeReg p.1 v s).ictrl,
        ufLen := (writeReg p.1 v s).ufLen, txLimit := (writeReg p.1 v s).txLimit, rxLen := (writeReg p.1 v s).rxLen,
        aesLen := (writeReg p.1 v s).aesLen, iv := (writeReg p.1 v s).iv, tag := (writeReg p.1 v s).tag } := by
  simp only [storedBits, List.forall_mem_cons, List.not_mem_nil, false_implies, implies_true, and_true]
  exact ⟨rfl, rfl, rfl, rfl, rfl, rfl, rfl, rfl, rfl, rfl, rfl, rfl, rfl, rfl, rfl, rfl, rfl, rfl, rfl, rfl, rfl⟩

/-- R90: what a write to a read/write register leaves, and what a read of any register returns after it. -/
theorem memWrite_storedBits {s t : State} {v : Word} (hidle : s.seq = .idle) {p : Reg × Word} (hp : p ∈ storedBits)
    (ht : t = writeReg p.1 v s) :
    (memRead .w4 (regAddr p.1) t).1 = v &&& p.2 ∧
      ∀ off : BitVec 12, off ≠ regAddr p.1 → off.toNat < 0x100 → (memRead .w4 off t).1 = (memRead .w4 off s).1 := by
  have hseq : t.seq = s.seq := ht.trans (writeReg_frame s v p hp) ▸ rfl
  have hcmd : p.1 ≠ .cmd := (by decide : ∀ q ∈ storedBits, q.1 ≠ .cmd) p hp
  subst ht
  constructor
  · rw [memRead_regAddr (.inl (hseq.trans hidle))]
    exact readReg_writeReg_self s v p hp
  · intro off hoff hlt
    refine memRead_fst_congr hseq fun g hg => ?_
    cases g with
    | reg r =>
      have hr : r ≠ p.1 := fun e => hoff (e ▸ eq_regAddr_of_targetOf hg)
      exact readReg_writeReg_of_ne hr hcmd v s
    | bytes a =>
      obtain ⟨-, hbuffer, -, -⟩ := targetOf_bytes _ _ _ hg
      omega

/-! ## What a register reads -/

theorem readReg_ctrl (s : State) : readReg .ctrl s = if s.irqEn = true then 1#32 else 0#32 := by
  unfold readReg
  cases s.irqEn <;> rfl

/-- R33: CTRL, in every state. -/
theorem memRead_ctrl (s : State) : memRead .w4 0x000#12 s = (if s.irqEn = true then 1#32 else 0#32, s) := by
  rw [← readReg_ctrl]
  exact memRead_regAddr (r := .ctrl) (.inr rfl)

theorem memWrite_ctrl (v : Word) (s : State) : memWrite .w4 0x000#12 v s = { s with irqEn := v.getLsbD 0 } :=
  memWrite_regAddr (r := .ctrl) v (.inr rfl)

/-- R35: STATUS, in every state. -/
theorem memRead_status (s : State) : memRead .w4 0x008#12 s = (statusWord s, s) :=
  memRead_regAddr (r := .status) (.inr rfl)

theorem memWrite_status (v : Word) (s : State) : memWrite .w4 0x008#12 v s = writeStatus v s :=
  memWrite_regAddr (r := .status) v (.inr rfl)

/-- R30: the registers whose reads return what they hold, CTRL apart. -/
def readableRegs : List Reg :=
  [.status, .csLo, .csHi, .addrCfg, .dest0, .dest1, .src0, .src1, .ictrl, .ufLen, .txLen, .txLimit, .rxLen, .aesLen,
   .iv0, .iv1, .iv2, .iv3, .tag0, .tag1, .tag2, .tag3, .rxi, .rxDest0, .rxDest1, .rxSrc0, .rxSrc1]

/-! ## The packing of byte groups (R58) -/

/-- Byte k of a run of registers is byte k mod 4 of register k / 4. -/
theorem getD_flatMap_wordBytes (ws : List Word) (k : Nat) (hk : k < 4 * ws.length) :
    (ws.flatMap wordBytes).getD k 0#8 = (ws.getD (k / 4) 0#32).extractLsb' (8 * (k % 4)) 8 := by
  induction ws generalizing k with
  | nil => simp at hk
  | cons w ws ih =>
    rw [List.flatMap_cons]
    by_cases hfirst : k < 4
    · rw [List.getD_append _ _ _ _ (by simpa using hfirst)]
      obtain rfl | rfl | rfl | rfl : k = 0 ∨ k = 1 ∨ k = 2 ∨ k = 3 := by omega
      all_goals rfl
    · have hdiv : k / 4 = (k - 4) / 4 + 1 := by omega
      have hmod : k % 4 = (k - 4) % 4 := by omega
      rw [List.getD_append_right _ _ _ _ (by simpa using hfirst), wordBytes_length, hdiv, List.getD_cons_succ, hmod]
      exact ih (k - 4) (by simp only [List.length_cons] at hk; omega)

theorem group16Bytes_getD (g : Group16) {k : Nat} (hk : k < 16) :
    (group16Bytes g).getD k 0#8 = ([g.r0, g.r1, g.r2, g.r3].getD (k / 4) 0#32).extractLsb' (8 * (k % 4)) 8 :=
  getD_flatMap_wordBytes [g.r0, g.r1, g.r2, g.r3] k hk

theorem group8Bytes_getD (g : Group8) {k : Nat} (hk : k < 8) :
    (group8Bytes g).getD k 0#8 = ([g.lo, g.hi].getD (k / 4) 0#32).extractLsb' (8 * (k % 4)) 8 :=
  getD_flatMap_wordBytes [g.lo, g.hi] k hk

/-- R45: a 7-byte group is the first seven bytes of its two registers, whose last byte is none of the group's. -/
theorem group7Bytes_getD (g : Group7) {k : Nat} (hk : k < 7) :
    (group7Bytes g).getD k 0#8 = ([g.r0, g.r1.setWidth 32].getD (k / 4) 0#32).extractLsb' (8 * (k % 4)) 8 := by
  have htake : group7Bytes g = ([g.r0, g.r1.setWidth 32].flatMap wordBytes).take 7 := rfl
  rw [htake, ← getD_flatMap_wordBytes _ k (by simp only [List.length_cons, List.length_nil]; omega)]
  simp [List.getD_eq_getElem?_getD, List.getElem?_take_of_lt hk]

/-- Settles O14. Each list of offsets is a list of registers at their offsets; what a register reads and stores is said by register. -/
theorem registersStoreTheirWritableBits : Obligations.RegistersStoreTheirWritableBits := by
  unfold Obligations.RegistersStoreTheirWritableBits
  refine ⟨fun s t v hidle => ?stores, fun s v => ⟨memWrite_ctrl v s, memRead_ctrl s⟩, fun s hidle => ?reads,
    fun g k hk => ⟨rfl, group16Bytes_getD g hk⟩, fun g k hk => ⟨rfl, group8Bytes_getD g hk⟩,
    fun g k hk => ⟨rfl, group7Bytes_getD g hk⟩, fun s v hidle => ?others⟩
  case stores =>
    change ∀ q ∈ storedBits.map fun p => (regAddr p.1, p.2), _
    refine List.forall_mem_map.mpr fun p hp ht => ?_
    rw [memWrite_regAddr v (.inl hidle)] at ht
    obtain ⟨hsame, hother⟩ := memWrite_storedBits hidle hp ht
    refine ⟨hsame, hother, ?_⟩
    rw [ht]
    exact writeReg_frame s v p hp
  case reads =>
    change ∀ q ∈ readableRegs.map fun r => (regAddr r, readReg r s), _
    exact List.forall_mem_map.mpr fun r _ => memRead_regAddr (.inl hidle)
  case others =>
    have read := fun r => memRead_regAddr (r := r) (.inl hidle)
    have write := fun r => memWrite_regAddr (r := r) v (.inl hidle)
    simp only [List.forall_mem_cons, List.not_mem_nil, false_implies, implies_true, and_true]
    exact ⟨⟨write .txLen, write .rxi, write .rxDest0, write .rxDest1, write .rxSrc0, write .rxSrc1⟩,
      ⟨read .cmd, read .key0, read .key1, read .key2, read .key3⟩, write .key0, write .key1, write .key2, write .key3⟩

/-! ## STATUS -/

/-- R35: STATUS by its fields, with the width of each field in view. -/
theorem statusWord_getLsbD (s : State) (i : Nat) :
    (statusWord s).getLsbD i =
      BitVec.getLsbD
        (0#6 ++ BitVec.ofBool s.keyValid ++ BitVec.ofBool s.rsReady ++ 0#3 ++ s.nCorr ++ errNumber s.errCode ++ 0#5 ++
          BitVec.ofBool s.accErr ++ BitVec.ofBool s.done ++ BitVec.ofBool (busyFlag s)) i := rfl

/-- See `statusWord_getLsbD`. -/
theorem statusWord_extractLsb' (s : State) (start len : Nat) :
    (statusWord s).extractLsb' start len =
      BitVec.extractLsb' start len
        (0#6 ++ BitVec.ofBool s.keyValid ++ BitVec.ofBool s.rsReady ++ 0#3 ++ s.nCorr ++ errNumber s.errCode ++ 0#5 ++
          BitVec.ofBool s.accErr ++ BitVec.ofBool s.done ++ BitVec.ofBool (busyFlag s)) := rfl

theorem statusWord_bits (s : State) :
    (statusWord s).getLsbD 0 = busyFlag s ∧ (statusWord s).getLsbD 1 = s.done ∧ (statusWord s).getLsbD 2 = s.accErr ∧
      (statusWord s).getLsbD 24 = s.rsReady ∧ (statusWord s).getLsbD 25 = s.keyValid := by
  simp only [statusWord_getLsbD, BitVec.getLsbD_append]
  simp

theorem statusWord_fields (s : State) :
    (statusWord s).extractLsb' 3 5 = 0#5 ∧ (statusWord s).extractLsb' 8 8 = errNumber s.errCode ∧
      (statusWord s).extractLsb' 16 5 = s.nCorr ∧ (statusWord s).extractLsb' 21 3 = 0#3 ∧
      (statusWord s).extractLsb' 26 6 = 0#6 := by
  simp (disch := decide) only [statusWord_extractLsb', BitVec.extractLsb'_append_eq_of_le,
    BitVec.extractLsb'_append_eq_of_add_le]
  simp

theorem writeStatus_eq (v : Word) (s : State) :
    writeStatus v s =
      { s with
        done := if v.getLsbD 1 = true then false else s.done, accErr := if v.getLsbD 2 = true then false else s.accErr } := by
  unfold writeStatus
  cases v.getLsbD 1 <;> cases v.getLsbD 2 <;> simp

/-- Settles O15: STATUS is open in every state, and its word is read field by field. -/
theorem statusRegister : Obligations.StatusRegister := by
  unfold Obligations.StatusRegister
  refine ⟨fun s v => ?_, rfl, rfl⟩
  obtain ⟨hbusy, hdone, haccErr, hready, hkey⟩ := statusWord_bits s
  obtain ⟨hlow, herr, hncorr, hmid, hhigh⟩ := statusWord_fields s
  have hseq : (statusWord s).getLsbD 0 = true ↔ s.seq = .busy := by rw [hbusy, busyFlag, beq_iff_eq]
  rw [memRead_status, memWrite_status]
  exact ⟨rfl, hseq, hdone, haccErr, hlow, herr, hncorr, hmid, hready, hkey, hhigh, writeStatus_eq v s⟩

/-! ## The sealed key -/

theorem memWrite_keyState (n : BusWidth) (off : BitVec 12) (v : Word) (s : State) :
    (memWrite n off v s).keyState = s.keyState := by
  rcases memWrite_cases n off v s with ⟨-, he⟩ | ⟨g, -, he⟩
  · rw [he, setAccErr_keyState]
  · rw [he]
    cases g with
    | reg r => cases r <;> rfl
    | bytes a => rfl

theorem memRead_keyState (n : BusWidth) (off : BitVec 12) (s : State) : (memRead n off s).2.keyState = s.keyState := by
  rcases memRead_cases n off s with ⟨-, he⟩ | ⟨g, -, he⟩ <;> rw [he]
  exact setAccErr_keyState s

/-- R53, R62: no register reads as a byte of KEYIN or of KEYSTATE, and neither is memory. -/
theorem readTarget_keys (n : BusWidth) (g : Target) (s : State) (k k' : Group16) :
    readTarget n g { s with keyIn := k, keyState := k' } = readTarget n g s := by
  cases g with
  | reg r => cases r <;> rfl
  | bytes a => rfl

/-- Settles O26: by the commits for the commands; for the accesses, because no target is a register or byte that holds a key. -/
theorem keyStateIsSealed : Obligations.KeyStateIsSealed := by
  unfold Obligations.KeyStateIsSealed
  exact ⟨fun i s t h => exec_keyState h, fun n off v s => ⟨memWrite_keyState n off v s, memRead_keyState n off s⟩,
    fun n off s k k' => memRead_fst_congr rfl fun g _ => readTarget_keys n g s k k'⟩

end Sys2Proof.Proofs
end

section
/-! PROOFS. The invariant of Safety.lean, part by part, and that every step keeps it: a completion by what its command commits, a turn
of the host by what an access, a reset or an idle turn leaves. -/

namespace Sys2Proof.Proofs

open Sys2Proof.Machine Sys2Proof.Laws

/-! ## The invariant, part by part -/

/-- `stateInv` with a name for each of its parts; tied to it by `stateInv_iff`. -/
structure Inv (s : State) : Prop where
  /-- Memory has its canonical form. -/
  mem : memWf s.mem = true
  /-- R40. -/
  nCorr : s.nCorr.toNat ≤ rsT
  /-- R49, R67. -/
  txLen : s.txLen.toNat ≤ frameCap
  /-- R292: while BUSY these are as the acceptance left them. -/
  busy : s.seq = .busy → s.done = false ∧ s.errCode = .none ∧ s.nCorr = 0#5
  /-- R42, R62. -/
  key : s.keyValid = false → s.keyState = zero16
  /-- R56. -/
  rxi : rxiLegal s.rxi = true

theorem busyClean_iff (s : State) :
    busyClean s = true ↔ (s.seq = .busy → s.done = false ∧ s.errCode = .none ∧ s.nCorr = 0#5) := by
  unfold busyClean busyFlag
  cases s.seq <;> simp [and_assoc]

theorem stateInv_iff (s : State) : stateInv s = true ↔ Inv s := by
  have hkey : (s.keyValid || s.keyState == zero16) = true ↔ (s.keyValid = false → s.keyState = zero16) := by
    cases s.keyValid <;> simp
  simp only [stateInv, Bool.and_eq_true, decide_eq_true_eq, busyClean_iff, hkey]
  constructor
  · rintro ⟨⟨⟨⟨⟨mem, nCorr⟩, txLen⟩, busy⟩, key⟩, rxi⟩
    exact ⟨mem, nCorr, txLen, busy, key, rxi⟩
  · rintro ⟨mem, nCorr, txLen, busy, key, rxi⟩
    exact ⟨⟨⟨⟨⟨mem, nCorr⟩, txLen⟩, busy⟩, key⟩, rxi⟩

theorem inv_reset : Inv State.reset := (stateInv_iff _).mp (by decide)

/-- R290, R291: a completion leaves BUSY, so the part about BUSY is not asked of the state it completes. -/
theorem inv_finish (c : ErrCode) {u : State} (mem : memWf u.mem = true) (nCorr : u.nCorr.toNat ≤ rsT)
    (txLen : u.txLen.toNat ≤ frameCap) (key : u.keyValid = false → u.keyState = zero16) (rxi : rxiLegal u.rxi = true) :
    Inv (finish c u) where
  mem := mem
  nCorr := nCorr
  txLen := txLen
  busy h := nomatch (finish_seq c u).symm.trans h
  key := key
  rxi := rxi

/-! ## RXI (R56) -/

/-- R56: RXI by its fields, with the width of each field in view. -/
theorem rxInfo_getLsbD (u : Bool) (ucmd : BitVec 2) (pf : Bool) (c0 c1 : Byte) (i : Nat) :
    (rxInfo u ucmd pf c0 c1).getLsbD i =
      BitVec.getLsbD (c1 ++ c0 ++ 0#4 ++ BitVec.ofBool pf ++ ucmd ++ BitVec.ofBool u) i := rfl

/-- See `rxInfo_getLsbD`. -/
theorem rxInfo_extractLsb' (u : Bool) (ucmd : BitVec 2) (pf : Bool) (c0 c1 : Byte) (start len : Nat) :
    (rxInfo u ucmd pf c0 c1).extractLsb' start len =
      BitVec.extractLsb' start len (c1 ++ c0 ++ 0#4 ++ BitVec.ofBool pf ++ ucmd ++ BitVec.ofBool u) := rfl

theorem rxInfo_bits (u : Bool) (ucmd : BitVec 2) (pf : Bool) (c0 c1 : Byte) :
    (rxInfo u ucmd pf c0 c1).getLsbD 0 = u ∧ (rxInfo u ucmd pf c0 c1).getLsbD 3 = pf ∧
      (rxInfo u ucmd pf c0 c1).getLsbD 8 = c0.getLsbD 0 ∧ (rxInfo u ucmd pf c0 c1).getLsbD 12 = c0.getLsbD 4 ∧
      (rxInfo u ucmd pf c0 c1).getLsbD 16 = c1.getLsbD 0 := by
  simp only [rxInfo_getLsbD, BitVec.getLsbD_append]
  simp

theorem rxInfo_fields (u : Bool) (ucmd : BitVec 2) (pf : Bool) (c0 c1 : Byte) :
    (rxInfo u ucmd pf c0 c1).extractLsb' 1 2 = ucmd ∧ (rxInfo u ucmd pf c0 c1).extractLsb' 4 4 = 0#4 ∧
      (rxInfo u ucmd pf c0 c1).extractLsb' 8 2 = c0.extractLsb' 0 2 ∧
      (rxInfo u ucmd pf c0 c1).extractLsb' 10 2 = c0.extractLsb' 2 2 ∧ (rxInfo u ucmd pf c0 c1).extractLsb' 16 8 = c1 := by
  simp (disch := decide) only [rxInfo_extractLsb', BitVec.extractLsb'_append_eq_of_le,
    BitVec.extractLsb'_append_eq_of_add_le]
  simp

/-- R264, R266: what an I-frame leaves in RXI. -/
theorem rxiLegal_iFrame {c0 : Byte} (c1 : Byte) (isIFrame : c0.getLsbD 0 = false) :
    rxiLegal (rxInfo false 0#2 (c1.getLsbD 0) c0 c1) = true := by
  obtain ⟨hu, hpf, hc0, -, hc1⟩ := rxInfo_bits false 0#2 (c1.getLsbD 0) c0 c1
  obtain ⟨hucmd, hzero, -, -, -⟩ := rxInfo_fields false 0#2 (c1.getLsbD 0) c0 c1
  simp only [rxiLegal, hu, hpf, hc0, hc1, hucmd, hzero, isIFrame]
  simp

/-- R264, R266: what a U-frame leaves in RXI. -/
theorem rxiLegal_uFrame {c0 : Byte} (isUFrame : c0.extractLsb' 0 2 = 0b11#2) (legal : c0.extractLsb' 2 2 ≠ 3#2) :
    rxiLegal (rxInfo true (c0.extractLsb' 2 2) (c0.getLsbD 4) c0 0#8) = true := by
  obtain ⟨hu, hpf, -, hc0, -⟩ := rxInfo_bits true (c0.extractLsb' 2 2) (c0.getLsbD 4) c0 0#8
  obtain ⟨hucmd, hzero, hlow, hcmd, hc1⟩ := rxInfo_fields true (c0.extractLsb' 2 2) (c0.getLsbD 4) c0 0#8
  simp only [rxiLegal, hu, hpf, hc0, hc1, hucmd, hzero, hlow, hcmd, isUFrame]
  simpa using legal

/-! ## A completion keeps the invariant -/

/-- A field of n bits holds no more than the number put into it. -/
theorem toNat_ofNat_le {k n m : Nat} (h : m ≤ k) : (BitVec.ofNat n m).toNat ≤ k := by
  rw [BitVec.toNat_ofNat]
  exact (Nat.mod_le _ _).trans h

theorem Commits.nCorr_le {s u : State} {i : Instr} (h : Commits s i u) (hs : s.nCorr.toNat ≤ rsT) :
    u.nCorr.toNat ≤ rsT := by
  cases h
  case rsDecode _ decoded => exact toNat_ofNat_le (rsDec_some decoded).2
  all_goals exact hs

theorem Commits.txLen_le {s u : State} {i : Instr} (h : Commits s i u) (hs : s.txLen.toNat ≤ frameCap) :
    u.txLen.toNat ≤ frameCap := by
  cases h
  case ax25Stuff _ fits => exact toNat_ofNat_le (fits.trans (min_le_right _ _))
  all_goals exact hs

theorem Commits.key {s u : State} {i : Instr} (h : Commits s i u) (hs : s.keyValid = false → s.keyState = zero16) :
    u.keyValid = false → u.keyState = zero16 := by
  cases h
  case aesSetkey => exact fun hinvalid => nomatch hinvalid
  all_goals exact hs

theorem Commits.rxiLegal {s u : State} {i : Instr} (h : Commits s i u) (hs : rxiLegal s.rxi = true) :
    rxiLegal u.rxi = true := by
  cases h
  case ax25RecvI _ isIFrame _ => exact rxiLegal_iFrame _ isIFrame
  case ax25RecvU _ isUFrame _ legal => exact rxiLegal_uFrame isUFrame legal
  all_goals exact hs

theorem exec_keeps_inv {i : Instr} {s t : State} (hs : Inv s) (h : exec i s = .next t) : Inv t := by
  rcases exec_cases h with ⟨c, -, rfl⟩ | ⟨u, hu, rfl⟩
  · exact inv_finish c hs.mem hs.nCorr hs.txLen hs.key hs.rxi
  · exact inv_finish .none (hu.storesOnlyIn.memWf hs.mem) (hu.nCorr_le hs.nCorr) (hu.txLen_le hs.txLen) (hu.key hs.key)
      (hu.rxiLegal hs.rxi)

/-! ## A turn of the host keeps the invariant -/

/-- R292: an acceptance clears DONE, ERRCODE and NCORR. -/
theorem accept_keeps_inv {s : State} (w : Word) (hs : Inv s) : Inv (accept w s) where
  mem := hs.mem
  nCorr := Nat.zero_le _
  txLen := hs.txLen
  busy _ := ⟨rfl, rfl, rfl⟩
  key := hs.key
  rxi := hs.rxi

/-- R35: a write to STATUS can only clear DONE. -/
theorem writeStatus_keeps_inv {s : State} (v : Word) (hs : Inv s) : Inv (writeStatus v s) where
  mem := hs.mem
  nCorr := hs.nCorr
  txLen := hs.txLen
  busy h := by
    obtain ⟨hdone, hrest⟩ := hs.busy h
    exact ⟨by simp [hdone], hrest⟩
  key := hs.key
  rxi := hs.rxi

theorem writeReg_keeps_inv {s : State} (r : Reg) (v : Word) (hs : Inv s) : Inv (writeReg r v s) := by
  cases r
  case cmd => exact accept_keeps_inv v hs
  case status => exact writeStatus_keeps_inv v hs
  all_goals exact ⟨hs.mem, hs.nCorr, hs.txLen, hs.busy, hs.key, hs.rxi⟩

theorem setAccErr_keeps_inv {s : State} (hs : Inv s) : Inv (setAccErr s) :=
  ⟨hs.mem, hs.nCorr, hs.txLen, hs.busy, hs.key, hs.rxi⟩

theorem memWrite_keeps_inv {s : State} (n : BusWidth) (off : BitVec 12) (v : Word) (hs : Inv s) :
    Inv (memWrite n off v s) := by
  have hmem := memWf_memWrite n off v s hs.mem
  rcases memWrite_cases n off v s with ⟨-, he⟩ | ⟨g, -, he⟩
  · rw [he]
    exact setAccErr_keeps_inv hs
  · rw [he] at hmem ⊢
    cases g with
    | reg r => exact writeReg_keeps_inv r v hs
    | bytes a => exact ⟨hmem, hs.nCorr, hs.txLen, hs.busy, hs.key, hs.rxi⟩

/-- R89: a read changes ACCERR at most. -/
theorem memRead_keeps_inv {s : State} (n : BusWidth) (off : BitVec 12) (hs : Inv s) : Inv (memRead n off s).2 := by
  rcases memRead_cases n off s with ⟨-, he⟩ | ⟨g, -, he⟩ <;> rw [he]
  · exact setAccErr_keeps_inv hs
  · exact hs

theorem hostRead_keeps_inv {s : State} (n : BusWidth) (off : BitVec 12) (hs : Inv s) : Inv (hostRead n off s) :=
  have h := memRead_keeps_inv n off hs
  ⟨h.mem, h.nCorr, h.txLen, h.busy, h.key, h.rxi⟩

theorem applyReset_keeps_inv (s : State) : Inv (applyReset s) :=
  ⟨inv_reset.mem, inv_reset.nCorr, inv_reset.txLen, inv_reset.busy, inv_reset.key, inv_reset.rxi⟩

theorem performOp_keeps_inv {s : State} (op : HostOp) (hs : Inv s) : Inv (performOp op s) := by
  cases op with
  | read n off => exact hostRead_keeps_inv n off hs
  | write n off v => exact memWrite_keeps_inv n off v hs
  | writeBack n off mask => exact memWrite_keeps_inv n off _ hs
  | readAt n addr =>
    unfold performOp
    dsimp only
    split
    · exact hostRead_keeps_inv n _ hs
    · exact hs
  | writeAt n addr v =>
    unfold performOp
    dsimp only
    split
    · exact memWrite_keeps_inv n _ v hs
    · exact hs
  | wait => exact hostRead_keeps_inv .w4 0x008#12 hs
  | idle => exact hs
  | reset => exact applyReset_keeps_inv s

/-- The host's list of operations is no part of the invariant. -/
theorem inv_withHost {s : State} (ops : List HostOp) (hs : Inv s) : Inv { s with host := ops } :=
  ⟨hs.mem, hs.nCorr, hs.txLen, hs.busy, hs.key, hs.rxi⟩

theorem hostTurn_keeps_inv {s : State} (hs : Inv s) : Inv (hostTurn s) := by
  rcases hostTurn_cases s with ⟨-, he⟩ | ⟨op, rest, -, ⟨-, he⟩ | ⟨-, he⟩⟩ <;> rw [he]
  · exact hs
  · exact performOp_keeps_inv op (inv_withHost rest hs)
  · exact inv_withHost _ (performOp_keeps_inv op (inv_withHost rest hs))

theorem tick_keeps_inv {s : State} (hs : Inv s) : Inv (tick s) := by
  unfold tick
  split
  · exact ⟨hs.mem, hs.nCorr, hs.txLen, hs.busy, hs.key, hs.rxi⟩
  · exact hs

theorem step_keeps_inv {s t : State} (hs : Inv s) (h : step s = .next t) : Inv t := by
  rcases step_cases s t h with ⟨-, i, -, hexec⟩ | ⟨-, -, rfl⟩ | ⟨-, rfl⟩
  · exact exec_keeps_inv hs hexec
  · exact inv_finish .illegal hs.mem hs.nCorr hs.txLen hs.key hs.rxi
  · exact hostTurn_keeps_inv (tick_keeps_inv hs)

/-- Settles O27, by the kind of step: a command's completion, an illegal word's, or a turn of the host. -/
theorem stepKeepsTheInvariant : Obligations.StepKeepsTheInvariant := by
  unfold Obligations.StepKeepsTheInvariant
  intro s t hs h
  exact (stateInv_iff t).mpr (step_keeps_inv ((stateInv_iff s).mp hs) h)

end Sys2Proof.Proofs
end

section
/-! PROOFS. Which accesses are refused, and what a refused access, a read, and an access while BUSY can do (20_memory.md R82 to R84,
R86, R87, R89). -/

namespace Sys2Proof.Proofs

open Sys2Proof.Machine Sys2Proof.Laws

/-! ## Which accesses have a target -/

/-- R59: the reserved words below 0x100 are those the register map leaves out. -/
theorem regAt_eq_none_iff {off : Nat} (hlt : off < 0x100) (haligned : off % 4 = 0) :
    regAt off = none ↔ off = 0x00C ∨ off = 0x01C ∨ off = 0x048 ∨ off = 0x04C ∨ 0x094 ≤ off := by
  have words : ∀ k < 64, regAt (4 * k) = none ↔
      4 * k = 0x00C ∨ 4 * k = 0x01C ∨ 4 * k = 0x048 ∨ 4 * k = 0x04C ∨ 0x094 ≤ 4 * k := by decide
  have h := words (off / 4) (by omega)
  rwa [Nat.mul_div_cancel' (Nat.dvd_of_mod_eq_zero haligned)] at h

theorem bufHolds_iff (a n : Nat) (b : Buffer) :
    bufHolds a n b = true ↔ bufBase b ≤ a ∧ a + n ≤ bufBase b + bufCap b := by simp [bufHolds]

/-- R82: the offsets a to a+n-1 lie in one of the six windows. -/
theorem any_bufHolds_iff (a n : Nat) :
    allBuffers.any (bufHolds a n) = true ↔
      (0x100 ≤ a ∧ a + n ≤ 0x1DF) ∨ (0x200 ≤ a ∧ a + n ≤ 0x2FF) ∨ (0x300 ≤ a ∧ a + n ≤ 0x3CF) ∨
        (0x400 ≤ a ∧ a + n ≤ 0x514) ∨ (0x600 ≤ a ∧ a + n ≤ 0x74B) ∨ (0x800 ≤ a ∧ a + n ≤ 0x94B) := by
  simp only [allBuffers, List.any_cons, List.any_nil, Bool.or_false, Bool.or_eq_true, bufHolds_iff, bufBase, bufCap]

/-- R82: the valid bytes of the buffers are those of the six windows. -/
theorem validOffset_iff (a : Nat) : validOffset a = true ↔ bufferOffset a := by
  rw [validOffset, any_bufHolds_iff]
  omega

/-- R82, R84: no two windows touch, so an access to valid bytes alone stays in one buffer. -/
theorem any_bufHolds_iff_bufferOffset (n : BusWidth) (off : Nat) :
    allBuffers.any (bufHolds off (widthBytes n)) = true ↔ ∀ k, k < widthBytes n → bufferOffset (off + k) := by
  rw [any_bufHolds_iff]
  have hpos := widthBytes_pos n
  have hle := widthBytes_le_four n
  constructor
  · intro h k hk
    omega
  · intro h
    have hfirst := h 0 hpos
    have hsecond := h 1
    have hthird := h 2
    have hlast := h (widthBytes n - 1) (by omega)
    omega

/-- R59: below 0x100 the reserved offsets are those of the register map. -/
theorem reservedAccess_iff_of_lt {n : BusWidth} {off : Nat} (hlt : off < 0x100) :
    reservedAccess n off ↔ off = 0x00C ∨ off = 0x01C ∨ off = 0x048 ∨ off = 0x04C ∨ 0x094 ≤ off := by
  have hno : ¬(0x100 ≤ off ∧ off < 0xA00 ∧ ∃ k, k < widthBytes n ∧ ¬bufferOffset (off + k)) := fun h => by omega
  simp only [reservedAccess, hno, or_false]
  omega

/-- R82, R84: from 0x100 on an access touches a reserved offset when one of its bytes is no valid byte. -/
theorem reservedAccess_iff_of_ge {n : BusWidth} {off : Nat} (hge : 0x100 ≤ off) :
    reservedAccess n off ↔ ¬∀ k, k < widthBytes n → bufferOffset (off + k) := by
  rw [← any_bufHolds_iff_bufferOffset]
  have hex : (∃ k, k < widthBytes n ∧ ¬bufferOffset (off + k)) ↔ ¬allBuffers.any (bufHolds off (widthBytes n)) = true := by
    rw [any_bufHolds_iff_bufferOffset]
    push Not
    rfl
  simp only [reservedAccess, hex]
  rw [any_bufHolds_iff]
  omega

/-- R86 (a), (b): an access has no target exactly when it touches a reserved offset or has a wrong width or alignment. -/
theorem targetOf_eq_none_iff (n : BusWidth) (off : Nat) :
    targetOf n off = none ↔ reservedAccess n off ∨ badShape n off := by
  unfold targetOf
  split
  · next hlt =>
    rw [reservedAccess_iff_of_lt hlt]
    split
    · next hshape =>
      obtain ⟨rfl, haligned⟩ := hshape
      rw [Option.map_eq_none_iff, regAt_eq_none_iff hlt haligned]
      have hshape : ¬badShape .w4 off := by
        rintro (⟨-, hn | hodd⟩ | ⟨hge, -⟩)
        · exact hn rfl
        · exact hodd haligned
        · omega
      simp only [hshape, or_false]
    · next hshape =>
      have hbad : badShape n off := .inl ⟨hlt, not_and_or.mp hshape⟩
      simp only [hbad, or_true]
  · next hge =>
    have hge : 0x100 ≤ off := by omega
    have hshape : badShape n off ↔ ¬off % widthBytes n = 0 := by simp only [badShape]; omega
    rw [reservedAccess_iff_of_ge hge, hshape]
    simp only [any_bufHolds_iff_bufferOffset, ite_eq_right_iff, reduceCtorEq, imp_false, not_and_or, or_comm]

/-- R87: the accesses open while BUSY are those that reach CTRL or STATUS. -/
theorem not_closedWhileBusy_iff (n : BusWidth) (off : BitVec 12) :
    ¬closedWhileBusy n off.toNat ↔ ∃ g, targetOf n off.toNat = some g ∧ openWhileBusy g = true := by
  simp only [closedWhileBusy, not_not]
  constructor
  · rintro ⟨rfl, hctrl | hstatus⟩
    · exact ⟨.reg .ctrl, hctrl ▸ rfl, rfl⟩
    · exact ⟨.reg .status, hstatus ▸ rfl, rfl⟩
  · rintro ⟨g, hg, hopen⟩
    cases g with
    | bytes a => exact nomatch hopen
    | reg r =>
      obtain ⟨-, hn, -, -⟩ := targetOf_reg n _ r hg
      have hoff := eq_regAddr_of_targetOf hg
      cases r
      case ctrl => exact ⟨hn, .inl (hoff ▸ rfl)⟩
      case status => exact ⟨hn, .inr (hoff ▸ rfl)⟩
      all_goals exact nomatch hopen

/-! ## Refusal -/

theorem busyFlag_iff (s : State) : busyFlag s = true ↔ s.seq = .busy := beq_iff_eq

theorem refusedAccess_eq_true_iff (n : BusWidth) (off : Nat) (s : State) :
    refusedAccess n off s = true ↔ admitted n off s = none := Option.isNone_iff_eq_none

theorem refusedAccess_eq_false_iff (n : BusWidth) (off : Nat) (s : State) :
    refusedAccess n off s = false ↔ ∃ g, admitted n off s = some g := by
  rw [refusedAccess, Option.isNone_eq_false_iff, Option.isSome_iff_exists]

/-- R86, R87: an access is admitted when it has a target, and one open to it if a command is in flight. -/
theorem admitted_eq_some_iff (n : BusWidth) (off : Nat) (s : State) (g : Target) :
    admitted n off s = some g ↔ targetOf n off = some g ∧ (s.seq = .busy → openWhileBusy g = true) := by
  refine ⟨fun h => ?_, fun ⟨hg, hopen⟩ => ?_⟩
  · obtain ⟨hg, hopen⟩ := admitted_some n off s g h
    exact ⟨hg, fun hbusy => hopen ((busyFlag_iff s).mpr hbusy)⟩
  · simp only [admitted, hg]
    by_cases hbusy : s.seq = .busy
    · simp [hopen hbusy]
    · simp [busyFlag, hbusy]

/-- R86: exactly the refused accesses. -/
theorem refusedAccess_iff (n : BusWidth) (off : BitVec 12) (s : State) :
    refusedAccess n off.toNat s = true ↔
      reservedAccess n off.toNat ∨ badShape n off.toNat ∨ (s.seq = .busy ∧ closedWhileBusy n off.toNat) := by
  rw [← or_assoc, ← targetOf_eq_none_iff, refusedAccess_eq_true_iff, Option.eq_none_iff_forall_ne_some]
  simp only [ne_eq, admitted_eq_some_iff]
  cases hg : targetOf n off.toNat with
  | none => simp
  | some g =>
    have hopen : ¬closedWhileBusy n off.toNat ↔ openWhileBusy g = true := by
      simpa [hg] using not_closedWhileBusy_iff n off
    simp only [Option.some.injEq, not_and, forall_eq', ← hopen, Classical.not_imp, not_not, reduceCtorEq, false_or]

theorem memRead_of_refused {n : BusWidth} {off : BitVec 12} {s : State} (h : refusedAccess n off.toNat s = true) :
    memRead n off s = (0#32, { s with accErr := true }) := by
  rw [memRead, (refusedAccess_eq_true_iff _ _ _).mp h]
  rfl

theorem memWrite_of_refused {n : BusWidth} {off : BitVec 12} {s : State} (v : Word)
    (h : refusedAccess n off.toNat s = true) : memWrite n off v s = { s with accErr := true } := by
  rw [memWrite, (refusedAccess_eq_true_iff _ _ _).mp h]
  rfl

/-- R89: an accepted read leaves the state as it is. -/
theorem memRead_of_accepted {n : BusWidth} {off : BitVec 12} {s : State} (h : refusedAccess n off.toNat s = false) :
    (memRead n off s).2 = s := by
  obtain ⟨g, hg⟩ := (refusedAccess_eq_false_iff _ _ _).mp h
  rw [memRead, hg]

theorem memRead_snd (n : BusWidth) (off : BitVec 12) (s : State) :
    (memRead n off s).2 = if refusedAccess n off.toNat s = true then { s with accErr := true } else s := by
  split
  · next h => rw [memRead_of_refused h]
  · next h => exact memRead_of_accepted (by simpa using h)

/-- R35: the one register write that touches ACCERR clears it. -/
theorem accErr_of_writeReg {r : Reg} {v : Word} {s : State} (h : (writeReg r v s).accErr = true) : s.accErr = true := by
  cases r
  case status => exact (Bool.and_eq_true_iff.mp h).1
  all_goals exact h

theorem accErr_of_memWrite_of_accepted {n : BusWidth} {off : BitVec 12} {v : Word} {s : State}
    (haccepted : refusedAccess n off.toNat s = false) (h : (memWrite n off v s).accErr = true) : s.accErr = true := by
  obtain ⟨g, hg⟩ := (refusedAccess_eq_false_iff _ _ _).mp haccepted
  rw [memWrite, hg] at h
  cases g with
  | reg r => exact accErr_of_writeReg h
  | bytes a => exact h

theorem refusedAccess_regAddr {r : Reg} {s : State} (h : s.seq = .idle) : refusedAccess .w4 (regAddr r).toNat s = false :=
  (refusedAccess_eq_false_iff _ _ _).mpr ⟨.reg r, admitted_regAddr (.inl h)⟩

/-- Settles O10: an access is refused for want of a target, or while BUSY because its target is closed; each register's offset is one
that `regAddr` gives. -/
theorem refusedAccesses : Obligations.RefusedAccesses := by
  unfold Obligations.RefusedAccesses
  refine fun n off v s => ⟨refusedAccess_iff n off s, fun h => ⟨memRead_of_refused h, memWrite_of_refused v h⟩,
    fun h => ⟨congrArg State.accErr (memRead_of_accepted h), accErr_of_memWrite_of_accepted h⟩, fun hidle => ?registers⟩
  have read := fun r => And.intro (refusedAccess_regAddr (r := r) hidle) (memRead_regAddr (r := r) (.inl hidle))
  have write := fun r => And.intro (refusedAccess_regAddr (r := r) hidle) (memWrite_regAddr (r := r) v (.inl hidle))
  refine ⟨?readOnly, ?writeOnly, ?status⟩
  case readOnly =>
    simp only [List.forall_mem_cons, List.not_mem_nil, false_implies, implies_true, and_true]
    exact ⟨write .txLen, write .rxi, write .rxDest0, write .rxDest1, write .rxSrc0, write .rxSrc1⟩
  case writeOnly =>
    simp only [List.forall_mem_cons, List.not_mem_nil, false_implies, implies_true, and_true]
    exact ⟨read .cmd, read .key0, read .key1, read .key2, read .key3⟩
  case status =>
    rw [memWrite_status]
    rfl

/-! ## Reads -/

/-- R87: what a refused read leaves refuses it again. -/
theorem refusedAccess_memRead (n : BusWidth) (off : BitVec 12) (s : State) :
    refusedAccess n off.toNat (memRead n off s).2 = refusedAccess n off.toNat s := by
  have hseq : (memRead n off s).2.seq = s.seq := by
    rw [memRead_snd]
    split <;> rfl
  rw [refusedAccess, admitted_congr hseq, ← refusedAccess]

/-- Settles O12: an accepted read leaves the state, and a refused one is refused again, with the same 0. -/
theorem readsHaveNoSideEffects : Obligations.ReadsHaveNoSideEffects := by
  unfold Obligations.ReadsHaveNoSideEffects
  refine fun n off s => ⟨memRead_snd n off s, fun h => congrArg _ (memRead_of_accepted h), ?_⟩
  cases h : refusedAccess n off.toNat s with
  | true => rw [memRead_of_refused ((refusedAccess_memRead n off s).trans h), memRead_of_refused h]
  | false => rw [memRead_of_accepted h]

/-! ## The block while BUSY -/

/-- R87: while BUSY the closed accesses are the refused ones. -/
theorem refusedAccess_iff_of_busy {s : State} (hbusy : s.seq = .busy) (n : BusWidth) (off : BitVec 12) :
    refusedAccess n off.toNat s = true ↔ closedWhileBusy n off.toNat := by
  rw [refusedAccess_eq_true_iff, ← not_iff_not, not_closedWhileBusy_iff, Option.eq_none_iff_forall_ne_some]
  simp [admitted_eq_some_iff, hbusy]

/-- R87: all a write can do while BUSY: be refused, store IRQ_EN, or clear W1C bits. -/
theorem memWrite_cases_of_busy {s : State} (hbusy : s.seq = .busy) (n : BusWidth) (off : BitVec 12) (v : Word) :
    memWrite n off v s = setAccErr s ∨ memWrite n off v s = { s with irqEn := v.getLsbD 0 } ∨
      memWrite n off v s = writeStatus v s := by
  rcases memWrite_cases n off v s with ⟨-, he⟩ | ⟨g, hg, he⟩
  · exact .inl he
  · have hopen := ((admitted_eq_some_iff _ _ _ _).mp hg).2 hbusy
    rw [he]
    cases g with
    | bytes a => exact nomatch hopen
    | reg r =>
      cases r
      case ctrl => exact .inr (.inl rfl)
      case status => exact .inr (.inr rfl)
      all_goals exact nomatch hopen

theorem memWrite_frame_of_busy {s : State} (hbusy : s.seq = .busy) (n : BusWidth) (off : BitVec 12) (v : Word) :
    memWrite n off v s =
      { s with
        irqEn := (memWrite n off v s).irqEn, done := (memWrite n off v s).done, accErr := (memWrite n off v s).accErr } := by
  rcases memWrite_cases_of_busy hbusy n off v with he | he | he <;> rw [he] <;> rfl

/-- Settles O11: while BUSY all but CTRL and STATUS is refused, and these two are as O14 and O15 have them in every state. -/
theorem busyBlockIsClosed : Obligations.BusyBlockIsClosed := by
  unfold Obligations.BusyBlockIsClosed
  intro n off v s hbusy
  have refused {n : BusWidth} {off : BitVec 12} := (refusedAccess_iff_of_busy hbusy n off).mpr
  exact ⟨refusedAccess_iff_of_busy hbusy n off,
    fun h => ⟨memRead_of_refused (refused h), memWrite_of_refused v (refused h)⟩, memWrite_frame_of_busy hbusy n off v,
    memWrite_of_refused v (refused (by decide)), memRead_ctrl s, memWrite_ctrl v s, memRead_status s,
    (memWrite_status v s).trans (writeStatus_eq v s)⟩

end Sys2Proof.Proofs
end

section
/-! PROOFS. The buffers as the host reaches them, byte by byte (20_memory.md R82, R84, R85, R88), and the window in the host's address
space (R81). -/

namespace Sys2Proof.Proofs

open Sys2Proof.Machine Sys2Proof.Laws

/-! ## Accesses to the buffers -/

/-- R84, R88: while idle an aligned access to valid bytes alone is accepted. -/
theorem accepted_of_bufferOffset {n : BusWidth} {off : BitVec 12} {s : State} (hidle : s.seq = .idle)
    (haligned : off.toNat % widthBytes n = 0) (hvalid : ∀ k, k < widthBytes n → bufferOffset (off.toNat + k)) :
    refusedAccess n off.toNat s = false := by
  have hfirst := hvalid 0 (widthBytes_pos n)
  have hge : 0x100 ≤ off.toNat := by omega
  have hreserved : ¬reservedAccess n off.toNat := fun h => (reservedAccess_iff_of_ge hge).mp h hvalid
  have hshape : ¬badShape n off.toNat := by
    rintro (⟨hlt, -⟩ | ⟨-, hodd⟩)
    · omega
    · exact hodd haligned
  rw [← Bool.not_eq_true, refusedAccess_iff]
  simp [hreserved, hshape, hidle]

/-- R83, R84: from 0x100 on an accepted access reaches the bytes from its own offset on. -/
theorem admitted_bytes {n : BusWidth} {off : BitVec 12} {s : State} (hge : 0x100 ≤ off.toNat)
    (haccepted : refusedAccess n off.toNat s = false) : admitted n off.toNat s = some (.bytes off.toNat) := by
  obtain ⟨g, hg⟩ := (refusedAccess_eq_false_iff _ _ _).mp haccepted
  have htarget := (admitted_some n _ s g hg).1
  rw [hg]
  cases g with
  | reg r =>
    obtain ⟨hlt, -⟩ := targetOf_reg n _ r htarget
    omega
  | bytes a =>
    obtain ⟨rfl, -⟩ := targetOf_bytes n _ a htarget
    rfl

/-- R85: byte k of what a buffer read returns; the bytes beyond its width are 0. -/
theorem wordByte_readTarget_bytes (n : BusWidth) (a : Nat) (s : State) {k : Nat} (hk : k < 4) :
    wordByte (readTarget n (.bytes a) s) k = if k < widthBytes n then readByte s.mem (a + k) else 0#8 := by
  unfold readTarget
  rw [wordByte_leWord _ _ hk]
  split
  · next hin => exact readBytes_getD _ _ _ _ hin _
  · next hout => exact List.getD_eq_default _ _ (by simpa using hout)

/-- R85: the bytes that an n-byte write puts on the bus. -/
theorem take_wordBytes_length (n : BusWidth) (v : Word) : ((wordBytes v).take (widthBytes n)).length = widthBytes n := by
  simp [widthBytes_le_four]

theorem take_wordBytes_getD (n : BusWidth) (v : Word) {k : Nat} (hk : k < widthBytes n) (d : Byte) :
    ((wordBytes v).take (widthBytes n)).getD k d = v.extractLsb' (8 * k) 8 := by
  have hfour := widthBytes_le_four n
  rw [List.getD_eq_getElem?_getD, List.getElem?_take_of_lt hk]
  obtain rfl | rfl | rfl | rfl : k = 0 ∨ k = 1 ∨ k = 2 ∨ k = 3 := by omega
  all_goals rfl

/-- R85: what a buffer write leaves at every offset of memory. -/
theorem readByte_writeTarget_bytes (n : BusWidth) (a : Nat) (v : Word) (s : State) (x : Nat) :
    readByte (writeTarget n (.bytes a) v s).mem x =
      if a ≤ x ∧ x < a + widthBytes n then v.extractLsb' (8 * (x - a)) 8 else readByte s.mem x := by
  have h := readByte_writeBytes s.mem a ((wordBytes v).take (widthBytes n)) x
  rw [take_wordBytes_length] at h
  refine h.trans ?_
  split
  · exact take_wordBytes_getD n v (by omega) _
  · rfl

/-- R82, R88: the six buffers, each with the offset of its byte 0 and the number of its valid bytes. -/
def bufferWindows : List (Buffer × Nat × Nat) := allBuffers.map fun b => (b, bufBase b, bufCap b)

/-- Settles O13: an accepted access from 0x100 on reaches bytes, which are read and written one by one. -/
theorem bufferAccessIsLittleEndian : Obligations.BufferAccessIsLittleEndian := by
  unfold Obligations.BufferAccessIsLittleEndian
  refine ⟨validOffset_iff, fun s => ?windows, fun n off s => accepted_of_bufferOffset, fun n off v s hge haccepted => ?access⟩
  case windows =>
    change ∀ p ∈ bufferWindows, _
    refine List.forall_mem_map.mpr fun b _ => ⟨fun i => rfl, fun i j => ⟨bufSlice_length b i j s, fun k hk => ?_⟩, rfl⟩
    exact readBytes_getD _ _ _ _ hk _
  case access =>
    have hadm := admitted_bytes hge haccepted
    have hread : memRead n off s = (readTarget n (.bytes off.toNat) s, s) := by rw [memRead, hadm]
    have hwrite : memWrite n off v s = writeTarget n (.bytes off.toNat) v s := by rw [memWrite, hadm]
    have hbyte := readByte_writeTarget_bytes n off.toNat v s
    rw [hread, hwrite]
    refine ⟨fun k hk => wordByte_readTarget_bytes n _ s hk, fun k hk => ?_, fun a hout => ?_, rfl⟩
    · rw [hbyte, if_pos (by omega), Nat.add_sub_cancel_left]
    · rw [hbyte, if_neg hout]

/-! ## The window -/

/-- R81: the addresses of the window, in order, are the block's offsets. -/
theorem windowOffset_coreBase_add (off : BitVec 12) : windowOffset (Config.coreBase + off.toNat) = some off := by
  have hin : Config.coreBase ≤ Config.coreBase + off.toNat ∧ Config.coreBase + off.toNat < Config.coreBase + 4096 := by omega
  rw [windowOffset, if_pos hin, Nat.add_sub_cancel_left, BitVec.ofNat_toNat, BitVec.setWidth_eq]

theorem windowOffset_of_outside {addr : Nat} (h : addr < Config.coreBase ∨ Config.coreBase + 4096 ≤ addr) :
    windowOffset addr = none := if_neg (by omega)

/-- Settles O18: inside the window an access is the block's own at the offset, outside it none. -/
theorem hostAddressWindow : Obligations.HostAddressWindow := by
  unfold Obligations.HostAddressWindow
  refine ⟨Nat.mul_mod_right _ _, fun n off v s => ?inside, fun n addr v s houtside => ?outside⟩
  case inside =>
    simp only [performOp, windowOffset_coreBase_add, hostRead, and_self]
  case outside =>
    have hpos := widthBytes_pos n
    have hnone : windowOffset addr = none := windowOffset_of_outside (by omega)
    simp only [performOp, hnone, and_self]

end Sys2Proof.Proofs
end

section
/-! PROOFS. The command in flight (20_memory.md R87, R91): the host's turns change nothing a command reads, so its result is that of
the state it was accepted in. -/

namespace Sys2Proof.Proofs

open Sys2Proof.Machine Sys2Proof.Laws

/-! ## What the host's operations leave while BUSY -/

/-- `t` differs from `s` at most in CTRL, in the W1C bits of STATUS, and in what the host has read. -/
def OnlyFlagsAndLog (s t : State) : Prop :=
  t = { s with irqEn := t.irqEn, done := t.done, accErr := t.accErr, readLog := t.readLog }

theorem OnlyFlagsAndLog.refl (s : State) : OnlyFlagsAndLog s s := rfl

theorem memWrite_onlyFlags {s : State} (hbusy : s.seq = .busy) (n : BusWidth) (off : BitVec 12) (v : Word) :
    OnlyFlagsAndLog s (memWrite n off v s) := by
  rcases memWrite_cases_of_busy hbusy n off v with he | he | he <;> rw [he] <;> rfl

theorem hostRead_onlyFlagsAndLog (n : BusWidth) (off : BitVec 12) (s : State) : OnlyFlagsAndLog s (hostRead n off s) := by
  unfold hostRead
  rw [memRead_snd]
  split <;> rfl

/-- R87, R89: all that an operation of the host short of a reset can do while BUSY. -/
theorem performOp_onlyFlagsAndLog {s : State} (hbusy : s.seq = .busy) {op : HostOp} (hop : op ≠ .reset) :
    OnlyFlagsAndLog s (performOp op s) := by
  cases op with
  | read n off => exact hostRead_onlyFlagsAndLog n off s
  | write n off v => exact memWrite_onlyFlags hbusy n off v
  | writeBack n off mask => exact memWrite_onlyFlags hbusy n off _
  | readAt n addr =>
    unfold performOp
    dsimp only
    split
    · exact hostRead_onlyFlagsAndLog n _ s
    · exact .refl s
  | writeAt n addr v =>
    unfold performOp
    dsimp only
    split
    · exact memWrite_onlyFlags hbusy n _ v
    · exact .refl s
  | wait => exact hostRead_onlyFlagsAndLog .w4 0x008#12 s
  | idle => exact .refl s
  | reset => exact absurd rfl hop

/-! ## What the host's turns leave while BUSY -/

/-- `s` with all that the host's turns may change while BUSY taken from `h`: CTRL, the W1C bits of STATUS, the turns left, and the
host's own side. -/
def withHostSide (s h : State) : State :=
  { s with
    irqEn := h.irqEn, done := h.done, accErr := h.accErr, latLeft := h.latLeft, host := h.host, readLog := h.readLog }

/-- `t` differs from `s` at most in what the host's turns may change while BUSY. -/
def OnlyHostSide (s t : State) : Prop := t = withHostSide s t

theorem OnlyHostSide.refl (s : State) : OnlyHostSide s s := rfl

theorem OnlyHostSide.trans {s t u : State} (hst : OnlyHostSide s t) (htu : OnlyHostSide t u) : OnlyHostSide s u := by
  unfold OnlyHostSide at *
  rw [htu, hst]
  rfl

theorem OnlyHostSide.seq_eq {s t : State} (h : OnlyHostSide s t) : t.seq = s.seq :=
  (congrArg State.seq h : t.seq = (withHostSide s t).seq)

theorem OnlyHostSide.cur_eq {s t : State} (h : OnlyHostSide s t) : t.cur = s.cur :=
  (congrArg State.cur h : t.cur = (withHostSide s t).cur)

/-- An operation of a turn is performed on the state whose host goes on with the operations after it. -/
theorem OnlyFlagsAndLog.onlyHostSide {s t : State} {ops : List HostOp} (h : OnlyFlagsAndLog { s with host := ops } t) :
    OnlyHostSide s t := by
  unfold OnlyFlagsAndLog at h
  unfold OnlyHostSide
  rw [h]
  rfl

theorem OnlyHostSide.withHost {s t : State} (h : OnlyHostSide s t) (ops : List HostOp) :
    OnlyHostSide s { t with host := ops } := by
  unfold OnlyHostSide at *
  rw [h]
  rfl

theorem tick_onlyHostSide (s : State) : OnlyHostSide s (tick s) := by
  unfold tick
  split <;> rfl

/-- R87, R91: a turn of the host while BUSY, short of a reset: the host stays at its operation or goes on to the next. -/
theorem hostTurn_of_busy {s : State} (hbusy : s.seq = .busy) (hhead : s.host.head? ≠ some .reset) :
    OnlyHostSide s (hostTurn s) ∧ (hostTurn s).latLeft = s.latLeft ∧
      ((hostTurn s).host = s.host ∨ (hostTurn s).host = s.host.tail) := by
  rcases hostTurn_cases s with ⟨-, he⟩ | ⟨op, rest, hhost, hturn⟩
  · rw [he]
    exact ⟨.refl s, rfl, .inl rfl⟩
  · have hop : op ≠ .reset := by simpa [hhost] using hhead
    have hperform : OnlyFlagsAndLog { s with host := rest } (performOp op { s with host := rest }) :=
      performOp_onlyFlagsAndLog (s := { s with host := rest }) hbusy hop
    have hlat := congrArg State.latLeft hperform
    rcases hturn with ⟨-, he⟩ | ⟨-, he⟩ <;> rw [he, hhost]
    · exact ⟨hperform.onlyHostSide, hlat, .inr (congrArg State.host hperform)⟩
    · exact ⟨hperform.onlyHostSide.withHost _, hlat, .inl rfl⟩

theorem noResetWithin_succ {n : Nat} {s t : State} (h : noResetWithin (n + 1) s)
    (hhost : t.host = s.host ∨ t.host = s.host.tail) : noResetWithin n t := by
  intro op hop
  refine h op ?_
  rcases hhost with hhost | hhost <;> rw [hhost] at hop
  · exact List.take_subset_take_left _ (Nat.le_succ n) hop
  · rw [← Nat.add_sub_cancel (n := n) (m := 1), ← List.tail_take_eq_take_tail] at hop
    exact List.mem_of_mem_tail hop

theorem head?_ne_reset {n : Nat} {s : State} (h : noResetWithin (n + 1) s) : s.host.head? ≠ some .reset := by
  intro hhead
  obtain ⟨rest, hhost⟩ := List.head?_eq_some_iff.mp hhead
  exact h .reset (by simp [hhost]) rfl

/-! ## From the acceptance to the completion -/

theorem completionDue_iff (s : State) : completionDue s = true ↔ s.seq = .busy ∧ s.latLeft = 0 := by
  simp [completionDue, busyFlag]

theorem run_one (M : Host.Core) (s : M.State) : M.run 1 s = M.step s := by
  simp only [Host.Core.run]
  cases M.step s <;> rfl

theorem run_succ_of_step {M : Host.Core} {n : Nat} {s t : M.State} (h : M.step s = .next t) :
    M.run (n + 1) s = M.run n t := by
  rw [Host.Core.run, h]

theorem step_of_turns_left {n : Nat} {s : State} (hlat : s.latLeft = n + 1) : step s = .next (hostTurn (tick s)) := by
  have hdue : ¬completionDue s = true := by simp [completionDue_iff, hlat]
  rw [step, if_neg hdue]

/-- R87, R91: with n turns of the host left, and no reset among them, the command in flight reaches its completion, and the state it
completes in differs from the one it was accepted in at most in the host's side. -/
theorem run_to_completion {n : Nat} {s : State} (hbusy : s.seq = .busy) (hlat : s.latLeft = n) (hreset : noResetWithin n s) :
    ∃ t, OnlyHostSide s t ∧ t.latLeft = 0 ∧ Sys2Proof.core.run (n + 1) s = step t := by
  induction n generalizing s with
  | zero => exact ⟨s, .refl s, hlat, run_one Sys2Proof.core s⟩
  | succ n ih =>
    obtain ⟨hside, hturnLat, hturnHost⟩ := hostTurn_of_busy (s := tick s) (by simpa using hbusy)
      (by simpa using head?_ne_reset hreset)
    have hside := (tick_onlyHostSide s).trans hside
    have hlat' : (hostTurn (tick s)).latLeft = n := by
      rw [hturnLat, tick_latLeft, if_pos ((busyFlag_iff s).mpr hbusy), hlat, Nat.add_sub_cancel]
    rw [tick_host] at hturnHost
    obtain ⟨t, ht, hzero, hrun⟩ := ih (hside.seq_eq.trans hbusy) hlat' (noResetWithin_succ hreset hturnHost)
    exact ⟨t, hside.trans ht, hzero, (run_succ_of_step (step_of_turns_left hlat)).trans hrun⟩

theorem step_of_command {s : State} {i : Instr} (hbusy : s.seq = .busy) (hlat : s.latLeft = 0)
    (hi : decode s.cur = .command i) : step s = exec i s := by
  rw [step, if_pos ((completionDue_iff s).mpr ⟨hbusy, hlat⟩), fetchWord, hi]

/-! ## A command does not read the host's side -/

/-- The outcome `r'` is `r` but for the host's side, which is that of `h`; DONE is the completion's own (R291). -/
def SameResult (h : State) (r r' : Host.Outcome State Fault Refusal) : Prop :=
  ∃ u, r = .next u ∧ r' = .next (withHostSide u { h with done := u.done })

section
variable {s h : State}

theorem SameResult.raiseError (c : ErrCode) : SameResult h (raiseError c s) (raiseError c (withHostSide s h)) :=
  ⟨finish c s, rfl, rfl⟩

theorem SameResult.completeOk (u : State) : SameResult h (completeOk u) (completeOk (withHostSide u h)) :=
  ⟨finish .none u, rfl, rfl⟩

theorem SameResult.ite {p : Prop} [Decidable p] {a a' b b' : Host.Outcome State Fault Refusal} (ha : SameResult h a a')
    (hb : SameResult h b b') : SameResult h (if p then a else b) (if p then a' else b') := by
  split
  · exact ha
  · exact hb

theorem execRsEncode_sameResult : SameResult h (execRsEncode s) (execRsEncode (withHostSide s h)) :=
  .ite (.raiseError _) (.completeOk (bufStore .cw (rsEnc (bufAll .msg s)) s))

theorem execRsDecode_sameResult : SameResult h (execRsDecode s) (execRsDecode (withHostSide s h)) := by
  refine .ite (.raiseError _) ?_
  have hcw : bufAll .cw (withHostSide s h) = bufAll .cw s := rfl
  rw [hcw]
  cases rsDec (bufAll .cw s) with
  | none => exact .raiseError _
  | some p => exact .completeOk { bufStore .msg p.1 s with nCorr := BitVec.ofNat 5 p.2 }

theorem aesChecked_sameResult {r r' : Host.Outcome State Fault Refusal} (hr : SameResult h r r') :
    SameResult h (aesChecked s r) (aesChecked (withHostSide s h) r') :=
  .ite (.raiseError _) (.ite (.raiseError _) hr)

theorem execAesCtr_sameResult : SameResult h (execAesCtr s) (execAesCtr (withHostSide s h)) :=
  aesChecked_sameResult (.completeOk (bufStore .adata (aesCtrMode (keyBytes s) (ivBytes s) (aesData s)) s))

theorem execAesGcmEnc_sameResult : SameResult h (execAesGcmEnc s) (execAesGcmEnc (withHostSide s h)) :=
  aesChecked_sameResult (.completeOk
    { bufStore .adata (gcmEnc (keyBytes s) (ivBytes s) (aesData s)).1 s with
      tag := group16Of (gcmEnc (keyBytes s) (ivBytes s) (aesData s)).2 })

theorem execAesGcmDec_sameResult : SameResult h (execAesGcmDec s) (execAesGcmDec (withHostSide s h)) := by
  refine aesChecked_sameResult ?_
  have hread : gcmDec (keyBytes (withHostSide s h)) (ivBytes (withHostSide s h)) (aesData (withHostSide s h))
      (tagBytes (withHostSide s h)) = gcmDec (keyBytes s) (ivBytes s) (aesData s) (tagBytes s) := rfl
  rw [hread]
  cases gcmDec (keyBytes s) (ivBytes s) (aesData s) (tagBytes s) with
  | none => exact .raiseError _
  | some p => exact .completeOk (bufStore .adata p s)

theorem execAx25Addr_sameResult (sel : AddrSel) : SameResult h (execAx25Addr sel s) (execAx25Addr sel (withHostSide s h)) := by
  refine .ite (.raiseError _) ?_
  cases sel with
  | dest => exact .completeOk { s with dest := group7Of (addrField (callSign s) (csLen s) (ssidField s) (cBit s) false) }
  | src => exact .completeOk { s with src := group7Of (addrField (callSign s) (csLen s) (ssidField s) (cBit s) true) }

theorem execAx25FrameI_sameResult : SameResult h (execAx25FrameI s) (execAx25FrameI (withHostSide s h)) :=
  .completeOk
    { bufStore .uf (iFrame (destAddr s) (srcAddr s) (nsField s) (pBit s) (nrField s) (bufAll .cw s)) s with
      ufLen := BitVec.ofNat 9 ufILen }

theorem execAx25FrameU_sameResult (ucmd : BitVec 2) (pf : Bool) :
    SameResult h (execAx25FrameU ucmd pf s) (execAx25FrameU ucmd pf (withHostSide s h)) :=
  .ite (.raiseError _)
    (.completeOk { bufStore .uf (uFrame (destAddr s) (srcAddr s) ucmd pf) s with ufLen := BitVec.ofNat 9 ufULen })

theorem execAx25Stuff_sameResult : SameResult h (execAx25Stuff s) (execAx25Stuff (withHostSide s h)) :=
  .ite (.raiseError _) (.ite (.raiseError _)
    (.completeOk { bufStore .tx (stuffedUf s) s with txLen := BitVec.ofNat 9 (stuffedUf s).length }))

theorem execAx25Unstuff_sameResult : SameResult h (execAx25Unstuff s) (execAx25Unstuff (withHostSide s h)) := by
  refine .ite (.raiseError _) (.ite (.raiseError _) ?_)
  have hread : unstuffedRx (withHostSide s h) = unstuffedRx s := rfl
  rw [hread]
  cases unstuffedRx s with
  | none => exact .raiseError _
  | some body =>
    exact .ite (.raiseError _) (.completeOk
      { bufStore .uf (flagByte :: (body ++ [flagByte])) s with ufLen := BitVec.ofNat 9 (body.length + 2) })

theorem recvIFrame_sameResult : SameResult h (recvIFrame s) (recvIFrame (withHostSide s h)) :=
  .ite (.raiseError _) (.ite (.raiseError _) (.completeOk
    (storeRxAddrs s
      { bufStore .cw (bufSlice .uf 18 273 s) s with
        rxi := rxInfo false 0#2 ((bufByte .uf 16 s).getLsbD 0) (bufByte .uf 15 s) (bufByte .uf 16 s) })))

theorem recvUFrame_sameResult : SameResult h (recvUFrame s) (recvUFrame (withHostSide s h)) :=
  .ite (.raiseError _) (.ite (.raiseError _) (.ite (.raiseError _) (.completeOk
    (storeRxAddrs s
      { s with
        rxi := rxInfo true ((bufByte .uf 15 s).extractLsb' 2 2) ((bufByte .uf 15 s).getLsbD 4) (bufByte .uf 15 s) 0#8 }))))

theorem execAx25Recv_sameResult : SameResult h (execAx25Recv s) (execAx25Recv (withHostSide s h)) :=
  .ite (.raiseError _) (.ite (.raiseError _) (.ite (.raiseError _) (.ite recvIFrame_sameResult recvUFrame_sameResult)))

/-- R87, R91: no command reads CTRL, DONE, ACCERR, or the host's own side. -/
theorem exec_sameResult (i : Instr) (s h : State) : SameResult h (exec i s) (exec i (withHostSide s h)) := by
  cases i with
  | rsInit => exact .completeOk { s with rsReady := true }
  | rsRelease => exact .completeOk { s with rsReady := false }
  | rsEncode => exact execRsEncode_sameResult
  | rsDecode => exact execRsDecode_sameResult
  | aesSetkey => exact .completeOk { s with keyState := s.keyIn, keyValid := true }
  | aesCtr => exact execAesCtr_sameResult
  | aesGcmEnc => exact execAesGcmEnc_sameResult
  | aesGcmDec => exact execAesGcmDec_sameResult
  | ax25Addr sel => exact execAx25Addr_sameResult sel
  | ax25FrameI => exact execAx25FrameI_sameResult
  | ax25FrameU ucmd pf => exact execAx25FrameU_sameResult ucmd pf
  | ax25Stuff => exact execAx25Stuff_sameResult
  | ax25Unstuff => exact execAx25Unstuff_sameResult
  | ax25Recv => exact execAx25Recv_sameResult

end

/-- Settles O9: the turns of the host lead to a state that differs in the host's side alone, which the command does not read. -/
theorem commandCommitsItsAcceptanceState : Obligations.CommandCommitsItsAcceptanceState := by
  unfold Obligations.CommandCommitsItsAcceptanceState
  intro s n i hbusy hlat hi hreset
  obtain ⟨h, hside, hzero, hrun⟩ := run_to_completion hbusy hlat hreset
  have hstep : step h = exec i h := step_of_command (hside.seq_eq.trans hbusy) hzero (hside.cur_eq ▸ hi)
  obtain ⟨u, hu, hu'⟩ := exec_sameResult i s h
  have hexec : exec i h = .next (withHostSide u { h with done := u.done }) := (congrArg (exec i) hside).trans hu'
  exact ⟨_, u, hrun.trans (hstep.trans hexec), hu, rfl⟩

end Sys2Proof.Proofs
end

section
/-! PROOFS. The encoding (30_encoding.md R110 to R117): a word decodes to the one command whose fields it holds, the fields
determine the word, and no row of the opcode table leaves a bit open outside ARG[2:0]. -/

namespace Sys2Proof.Proofs

open Sys2Proof.Machine Sys2Proof.Laws

/-! ## The fields of a word -/

/-- R110: the three fields cover the word, so no bit of it is outside them. -/
theorem word_eq_append_fields (w : Word) : w = (splitWord w).rsvd ++ (splitWord w).arg ++ (splitWord w).opcode := by
  refine BitVec.eq_of_getLsbD_eq fun i hi => ?_
  simp only [splitWord, BitVec.getLsbD_append, BitVec.getLsbD_extractLsb']
  split
  · next hop => simp [hop]
  · split
    · next harg => simp [harg, show 8 + (i - 8) = i by omega]
    · simp [show i - 8 - 4 < 20 by omega, show 12 + (i - 8 - 4) = i by omega]

theorem splitWord_injective {w w' : Word} (h : splitWord w = splitWord w') : w = w' := by
  rw [word_eq_append_fields w, h, ← word_eq_append_fields w']

theorem encodesItsFields (i : Instr) : EncodesItsFields.Statement i := by
  cases i with
  | rsInit => exact EncodesItsFields.rsInit
  | rsRelease => exact EncodesItsFields.rsRelease
  | rsEncode => exact EncodesItsFields.rsEncode
  | rsDecode => exact EncodesItsFields.rsDecode
  | aesSetkey => exact EncodesItsFields.aesSetkey
  | aesCtr => exact EncodesItsFields.aesCtr
  | aesGcmEnc => exact EncodesItsFields.aesGcmEnc
  | aesGcmDec => exact EncodesItsFields.aesGcmDec
  | ax25Addr sel => exact EncodesItsFields.ax25Addr sel
  | ax25FrameI => exact EncodesItsFields.ax25FrameI
  | ax25FrameU ucmd pf => exact EncodesItsFields.ax25FrameU ucmd pf
  | ax25Stuff => exact EncodesItsFields.ax25Stuff
  | ax25Unstuff => exact EncodesItsFields.ax25Unstuff
  | ax25Recv => exact EncodesItsFields.ax25Recv

@[simp] theorem splitWord_encode (i : Instr) : splitWord (encode i) = i.fields := (encodesItsFields i).1

theorem instr_wellFormed (i : Instr) : i.wellFormed = true := (encodesItsFields i).2

/-- R113: every command has RSVD 0. -/
@[simp] theorem fields_rsvd (i : Instr) : i.fields.rsvd = 0#20 := by
  cases i with
  | ax25Addr sel => cases sel <;> rfl
  | _ => rfl

/-- R111: the 14 values of OPCODE. -/
abbrev definedOpcodes : List (BitVec 8) :=
  [0x01#8, 0x02#8, 0x03#8, 0x04#8, 0x10#8, 0x11#8, 0x12#8, 0x13#8, 0x20#8, 0x21#8, 0x22#8, 0x23#8, 0x30#8, 0x31#8]

theorem opcodeDefined_iff {f : CmdFields} : f.opcodeDefined = true ↔ f.opcode ∈ definedOpcodes := List.contains_iff_mem

theorem opcode_mem_definedOpcodes (i : Instr) : i.fields.opcode ∈ definedOpcodes := by
  have hwf : i.fields.wellFormed = true := instr_wellFormed i
  simp only [CmdFields.wellFormed, Bool.and_eq_true] at hwf
  obtain ⟨⟨_, hdefined⟩, _⟩ := hwf
  exact opcodeDefined_iff.mp hdefined

/-! ## What the parts of the decoder answer -/

theorem decode_of_rsvd_ne {w : Word} (h : (splitWord w).rsvd ≠ 0#20) : decode w = .illegal .reservedBits := if_pos h

theorem decode_of_rsvd_eq {w : Word} (h : (splitWord w).rsvd = 0#20) :
    decode w = decodeFields (splitWord w).opcode (splitWord w).arg := if_neg (not_not.mpr h)

theorem decodeNoArg_eq_command {arg : BitVec 4} {i j : Instr} : decodeNoArg arg i = .command j ↔ arg = 0#4 ∧ i = j := by
  unfold decodeNoArg
  split <;> simp_all

theorem decodeNoArg_illegal {arg : BitVec 4} {i : Instr} : (∃ why, decodeNoArg arg i = .illegal why) ↔ arg ≠ 0#4 := by
  unfold decodeNoArg
  split <;> simp_all

/-- R112: the ARG values of AX25_ADDR are the two of SEL. -/
theorem decodeAddr_eq_command {arg : BitVec 4} {i : Instr} (h : decodeAddr arg = .command i) :
    i.fields = ⟨0x20#8, arg, 0#20⟩ := by
  unfold decodeAddr at h
  split at h
  · next hclear =>
    have hsel : ∀ a : BitVec 4, a.extractLsb' 1 3 = 0#3 →
        (Instr.ax25Addr (if a.getLsbD 0 then .src else .dest)).fields = ⟨0x20#8, a, 0#20⟩ := by decide
    injection h with hi
    exact hi ▸ hsel arg hclear
  · cases h

theorem decodeAddr_illegal {arg : BitVec 4} : (∃ why, decodeAddr arg = .illegal why) ↔ arg.extractLsb' 1 3 ≠ 0#3 := by
  unfold decodeAddr
  split <;> simp_all

/-- R112: ARG of AX25_FRAME_U is its operands and a 0, so the two operands give it back. -/
theorem decodeFrameU_eq_command {arg : BitVec 4} {i : Instr} (h : decodeFrameU arg = .command i) :
    i.fields = ⟨0x22#8, arg, 0#20⟩ := by
  unfold decodeFrameU at h
  split at h
  · cases h
  · next hclear =>
    have hoperands : ∀ a : BitVec 4, ¬ a.getLsbD 3 = true →
        (Instr.ax25FrameU (a.extractLsb' 0 2) (a.getLsbD 2)).fields = ⟨0x22#8, a, 0#20⟩ := by decide
    injection h with hi
    exact hi ▸ hoperands arg hclear

theorem decodeFrameU_illegal {arg : BitVec 4} : (∃ why, decodeFrameU arg = .illegal why) ↔ arg.getLsbD 3 = true := by
  unfold decodeFrameU
  split <;> simp_all

/-- R111, R114, R115: what `case op of` can answer, said once: the decoder of an operand-free command whose opcode is `op`,
that of one of the two commands with operands, or no command. -/
theorem decodeFields_cases {P : Decoded → Prop} {op : BitVec 8} {arg : BitVec 4}
    (noArg : ∀ i : Instr, i.fields = ⟨op, 0#4, 0#20⟩ → op ≠ 0x20#8 → op ≠ 0x22#8 → P (decodeNoArg arg i))
    (addr : op = 0x20#8 → P (decodeAddr arg)) (frameU : op = 0x22#8 → P (decodeFrameU arg))
    (undefined : op ∉ definedOpcodes → P (.illegal .undefinedOpcode)) :
    P (decodeFields op arg) := by
  have plain (i : Instr) (hargs : i.fields = ⟨i.fields.opcode, 0#4, 0#20⟩) (h20 : i.fields.opcode ≠ 0x20#8)
      (h22 : i.fields.opcode ≠ 0x22#8) (h : op = i.fields.opcode) : P (decodeNoArg arg i) := by
    subst h
    exact noArg i hargs h20 h22
  unfold decodeFields
  refine iteInduction (plain .rsInit rfl (by decide) (by decide)) fun h01 => ?_
  refine iteInduction (plain .rsRelease rfl (by decide) (by decide)) fun h02 => ?_
  refine iteInduction (plain .rsEncode rfl (by decide) (by decide)) fun h03 => ?_
  refine iteInduction (plain .rsDecode rfl (by decide) (by decide)) fun h04 => ?_
  refine iteInduction (plain .aesSetkey rfl (by decide) (by decide)) fun h10 => ?_
  refine iteInduction (plain .aesCtr rfl (by decide) (by decide)) fun h11 => ?_
  refine iteInduction (plain .aesGcmEnc rfl (by decide) (by decide)) fun h12 => ?_
  refine iteInduction (plain .aesGcmDec rfl (by decide) (by decide)) fun h13 => ?_
  refine iteInduction addr fun h20 => ?_
  refine iteInduction (plain .ax25FrameI rfl (by decide) (by decide)) fun h21 => ?_
  refine iteInduction frameU fun h22 => ?_
  refine iteInduction (plain .ax25Stuff rfl (by decide) (by decide)) fun h23 => ?_
  refine iteInduction (plain .ax25Unstuff rfl (by decide) (by decide)) fun h30 => ?_
  refine iteInduction (plain .ax25Recv rfl (by decide) (by decide)) fun h31 => ?_
  exact undefined (by simp [h01, h02, h03, h04, h10, h11, h12, h13, h20, h21, h22, h23, h30, h31])

/-! ## Decoding a word and the fields of a command -/

/-- Each branch of the decoder answers a command with the branch's own opcode and the ARG it was given. -/
theorem fields_of_decodeFields {op : BitVec 8} {arg : BitVec 4} {i : Instr} :
    decodeFields op arg = .command i → i.fields = ⟨op, arg, 0#20⟩ := by
  refine decodeFields_cases (P := fun d => d = .command i → i.fields = ⟨op, arg, 0#20⟩) ?noArg ?addr ?frameU ?undefined
  case noArg =>
    intro j hfields _ _ h
    obtain ⟨harg, hji⟩ := decodeNoArg_eq_command.mp h
    rw [← hji, hfields, harg]
  case addr => exact fun hop h => hop ▸ decodeAddr_eq_command h
  case frameU => exact fun hop h => hop ▸ decodeFrameU_eq_command h
  case undefined => exact fun _ h => nomatch h

/-- R112, R115: the decoder's `case` takes the fields of a command to that command. -/
theorem decodeFields_fields (i : Instr) : decodeFields i.fields.opcode i.fields.arg = .command i := by
  cases i with
  | ax25Addr sel => cases sel <;> rfl
  | ax25FrameU ucmd pf => revert ucmd pf; decide
  | _ => rfl

/-- R110 to R115: a word decodes to a command exactly when its fields are those the command stands for. -/
theorem decode_eq_command_iff {w : Word} {i : Instr} : decode w = .command i ↔ splitWord w = i.fields := by
  constructor
  · intro h
    by_cases hrsvd : (splitWord w).rsvd = 0#20
    · rw [decode_of_rsvd_eq hrsvd] at h
      rw [fields_of_decodeFields h, ← hrsvd]
    · rw [decode_of_rsvd_ne hrsvd] at h
      cases h
  · intro h
    rw [decode_of_rsvd_eq (by simp [h]), h, decodeFields_fields]

theorem decode_encode (i : Instr) : decode (encode i) = .command i := decode_eq_command_iff.mpr (splitWord_encode i)

theorem encode_of_decode {w : Word} {i : Instr} (h : decode w = .command i) : encode i = w :=
  splitWord_injective ((splitWord_encode i).trans (decode_eq_command_iff.mp h).symm)

/-- Settles O2: decoding reads exactly the fields of a command, and the fields determine the word. -/
theorem decodeAndEncodeAgree : Obligations.DecodeAndEncodeAgree := by
  unfold Obligations.DecodeAndEncodeAgree
  exact ⟨fun i _ => decode_encode i, fun _ i h => ⟨instr_wellFormed i, encode_of_decode h⟩⟩

/-! ## The illegal words -/

/-- R111, R112: what makes OPCODE and ARG illegal where RSVD is 0. -/
theorem decodeFields_illegal {op : BitVec 8} {arg : BitVec 4} :
    (∃ why, decodeFields op arg = .illegal why) ↔
      op ∉ definedOpcodes ∨
        (op = 0x20#8 ∧ arg.extractLsb' 1 3 ≠ 0#3) ∨ (op = 0x22#8 ∧ arg.getLsbD 3 = true) ∨
        (op ≠ 0x20#8 ∧ op ≠ 0x22#8 ∧ arg ≠ 0#4) := by
  refine decodeFields_cases (P := fun d => (∃ why, d = .illegal why) ↔ _) ?noArg ?addr ?frameU ?undefined
  case noArg =>
    intro i hfields h20 h22
    have hdefined : op ∈ definedOpcodes := by simpa [hfields] using opcode_mem_definedOpcodes i
    simp only [decodeNoArg_illegal, hdefined, h20, h22, not_true_eq_false, false_and, false_or, ne_eq, not_false_eq_true, true_and]
  case addr =>
    rintro rfl
    simp [decodeAddr_illegal]
  case frameU =>
    rintro rfl
    simp [decodeFrameU_illegal]
  case undefined => exact fun hop => ⟨fun _ => .inl hop, fun _ => ⟨_, rfl⟩⟩

/-- Settles O4: RSVD is checked first, and then OPCODE and ARG. -/
theorem illegalWordsAreTheIllFormedOnes : Obligations.IllegalWordsAreTheIllFormedOnes := by
  unfold Obligations.IllegalWordsAreTheIllFormedOnes
  intro w
  by_cases hrsvd : w.extractLsb' 12 20 = 0#20
  · have harg : (w.extractLsb' 8 4).extractLsb' 1 3 = w.extractLsb' 9 3 := by
      refine BitVec.eq_of_getLsbD_eq fun k hk => ?_
      simp [hk, ← Nat.add_assoc, show 1 + k < 4 by omega]
    have hbit : (w.extractLsb' 8 4).getLsbD 3 = w.getLsbD 11 := by simp
    rw [decode_of_rsvd_eq hrsvd, decodeFields_illegal, ← harg, ← hbit]
    exact (or_iff_right (not_not.mpr hrsvd)).symm
  · exact iff_of_true ⟨_, decode_of_rsvd_ne hrsvd⟩ (.inl hrsvd)

/-! ## The opcode table -/

/-- The mnemonic of a decoded word, where it is a command. -/
def decodedMnemonic : Decoded → Option String
  | .command i => some (mnemonicOf i)
  | .illegal _ => none

theorem decodedMnemonic_eq_some {d : Decoded} {m : String} :
    decodedMnemonic d = some m ↔ ∃ i, d = .command i ∧ mnemonicOf i = m := by
  cases d <;> simp [decodedMnemonic]

/-- The word of a row with `v` in ARG[2:0], where the operands stand. -/
def rowWord (r : OpcodeRow) (v : BitVec 3) : Word := r.pattern ||| (v.setWidth 32 <<< 8)

/-- The bits 0x700 of a word are its ARG[2:0] (R110), put back in place. -/
theorem and_operandBits (w : Word) : w &&& 0x700#32 = (w.extractLsb' 8 3).setWidth 32 <<< 8 := by
  have hbits : ∀ k < 32, (0x700#32).getLsbD k = (decide (8 ≤ k) && decide (k - 8 < 3)) := by decide
  refine BitVec.eq_of_getLsbD_eq fun k hk => ?_
  rw [BitVec.getLsbD_and, hbits k hk]
  by_cases h8 : 8 ≤ k
  · simp [hk, h8, Nat.add_sub_cancel' h8, Bool.and_comm]
  · simp [h8]

/-- R112, R115: no row leaves a bit open outside ARG[2:0], so its pattern and those three bits are the whole of a word
it matches. -/
theorem eq_rowWord_of_selects {w : Word} {r : OpcodeRow} (hr : r ∈ opcodeTable) (h : r.selects w = true) :
    w = rowWord r (w.extractLsb' 8 3) := by
  have htable : ∀ r ∈ opcodeTable,
      r.mask &&& 0xFFFFF8FF#32 = 0xFFFFF8FF#32 ∧ r.pattern &&& 0xFFFFF8FF#32 = r.pattern := by decide
  obtain ⟨hmask, hpattern⟩ := htable r hr
  have hw : w &&& r.mask = r.pattern := by simpa [OpcodeRow.selects] using h
  have hfixed : w &&& 0xFFFFF8FF#32 = r.pattern := by rw [← hpattern, ← hw, BitVec.and_assoc, hmask]
  calc w = w &&& (0xFFFFF8FF#32 ||| 0x700#32) := BitVec.and_allOnes.symm
    _ = (w &&& 0xFFFFF8FF#32) ||| (w &&& 0x700#32) := BitVec.and_or_distrib_left
    _ = rowWord r (w.extractLsb' 8 3) := by rw [hfixed, and_operandBits, rowWord]

/-- R115: a word of a row, if the row matches it, decodes to a command of the row: the table's 14 rows with the eight values of
ARG[2:0]. -/
theorem decodedMnemonic_rowWord :
    ∀ r ∈ opcodeTable, ∀ v : BitVec 3, r.selects (rowWord r v) = true →
      decodedMnemonic (decode (rowWord r v)) = some r.mnemonic := by
  decide

/-- R115, R117: the row of a command matches its word. -/
theorem selects_encode (i : Instr) : ∀ r ∈ opcodeTable, mnemonicOf i = r.mnemonic → r.selects (encode i) = true := by
  cases i with
  | ax25Addr sel => cases sel <;> decide
  | ax25FrameU ucmd pf => revert ucmd pf; decide
  | _ => decide

/-- R115: mask and match agree with the decoder. -/
theorem selects_iff_decode {w : Word} {r : OpcodeRow} (hr : r ∈ opcodeTable) :
    r.selects w = true ↔ ∃ i, decode w = .command i ∧ mnemonicOf i = r.mnemonic := by
  constructor
  · intro h
    have hw := eq_rowWord_of_selects hr h
    rw [← decodedMnemonic_eq_some, hw]
    exact decodedMnemonic_rowWord r hr _ (hw ▸ h)
  · rintro ⟨i, hi, hmnemonic⟩
    exact encode_of_decode hi ▸ selects_encode i r hr hmnemonic

/-- R114: a mnemonic names one row. -/
theorem row_eq_of_mnemonic : ∀ r ∈ opcodeTable, ∀ r' ∈ opcodeTable, r.mnemonic = r'.mnemonic → r = r' := by decide

/-- Settles O3: two rows that match one word have the mnemonic of the one command it decodes to. -/
theorem maskAndMatchSelectTheCommand : Obligations.MaskAndMatchSelectTheCommand := by
  unfold Obligations.MaskAndMatchSelectTheCommand
  refine ⟨fun w r hr => selects_iff_decode hr, fun w r hr r' hr' h h' => ?_⟩
  obtain ⟨i, hi, hmnemonic⟩ := (selects_iff_decode hr).mp h
  obtain ⟨j, hj, hmnemonic'⟩ := (selects_iff_decode hr').mp h'
  obtain rfl : i = j := Decoded.command.inj (hi.symm.trans hj)
  exact row_eq_of_mnemonic r hr r' hr' (hmnemonic.symm.trans hmnemonic')

/-! ## The assembler's words -/

/-- Settles O1: a closed table of 20 words, each looked up and decoded. -/
theorem mnemonicWordsDecode : Obligations.MnemonicWordsDecode := by
  unfold Obligations.MnemonicWordsDecode
  decide

end Sys2Proof.Proofs
end

section
/-! PROOFS. The commands of the Reed-Solomon engine (40_rs_codec.md R154 to R157): each is the completion of its commit, and the
two that write a buffer leave the rest of memory. -/

namespace Sys2Proof.Proofs

open Sys2Proof.Machine Sys2Proof.Laws

/-- Settles O29: both commands commit one flag and complete. -/
theorem rsContextCommands : Obligations.RsContextCommands := by
  unfold Obligations.RsContextCommands
  exact fun s => ⟨rfl, rfl⟩

/-- R156: with the context RS_ENCODE completes over its commit. -/
theorem execRsEncode_of_ready {s : State} (ready : s.rsReady = true) :
    exec .rsEncode s = .next (finish .none (bufStore .cw (rsEnc (bufAll .msg s)) s)) := by
  simp [exec, execRsEncode, ready, completeOk_eq]

/-- R157: with the context RS_DECODE completes over its commit where the decoder answers. -/
theorem execRsDecode_of_some {s : State} (ready : s.rsReady = true) {msg : List Byte} {n : Nat}
    (decoded : rsDec (bufAll .cw s) = some (msg, n)) :
    exec .rsDecode s = .next (finish .none { bufStore .msg msg s with nCorr := BitVec.ofNat 5 n }) := by
  simp [exec, execRsDecode, ready, decoded, completeOk_eq]

/-- R157, R299: with the context RS_DECODE ends with ERR_UNCORRECTABLE where the decoder fails. -/
theorem execRsDecode_of_none {s : State} (ready : s.rsReady = true) (failed : rsDec (bufAll .cw s) = none) :
    exec .rsDecode s = .next (finish .uncorrectable s) := by
  simp [exec, execRsDecode, ready, failed, raiseError_eq]

/-- R88: a store into a buffer keeps every byte outside the stored run. -/
theorem bufStore_keepsBytesOutside (b : Buffer) (l : List Byte) (s : State) :
    keepsBytesOutside (bufBase b) l.length s (bufStore b l s) :=
  fun a outside => (readByte_bufStore b l s a).trans (if_neg outside)

/-- Settles O31: the codeword fills CW, and the store reaches nothing else. -/
theorem rsEncodeWritesTheCodeword : Obligations.RsEncodeWritesTheCodeword := by
  unfold Obligations.RsEncodeWritesTheCodeword
  intro s ready
  have hlen : (rsEnc (bufAll .msg s)).length = 255 := by simp [bufCap]
  refine ⟨_, execRsEncode_of_ready ready, rfl, bufAll_bufStore .cw _ s hlen, ?_⟩
  have frame := bufStore_keepsBytesOutside .cw (rsEnc (bufAll .msg s)) s
  rw [hlen] at frame
  exact frame

/-- R148, R153: what the decoder answers, it has checked: a word with no syndrome left, whose message and distance it returns. -/
theorem rsDec_answer {r msg : List Byte} {n : Nat} (h : rsDec r = some (msg, n)) :
    ∃ c : List Byte, c.length = r.length ∧ allZero (syndromes c) = true ∧ c.take rsK = msg ∧ hamming r c = n := by
  unfold rsDec at h
  dsimp only at h
  split at h
  · next clean =>
    simp only [Option.some.injEq, Prod.mk.injEq] at h
    exact ⟨r, rfl, clean, h.1, (hamming_self r).trans h.2⟩
  · split at h
    · simp at h
    · split at h
      · simp at h
      · split at h
        · simp at h
        · next c corrected =>
          split at h
          · next clean =>
            simp only [Option.some.injEq, Prod.mk.injEq] at h
            exact ⟨c, correctAt_length _ _ _ _ _ corrected, clean, h.1, h.2⟩
          · simp at h

/-- Settles O32: a decoded message fills MSG and its count fits NCORR; a failure is an error completion. -/
theorem rsDecodeWritesTheMessage : Obligations.RsDecodeWritesTheMessage := by
  unfold Obligations.RsDecodeWritesTheMessage
  intro s ready
  refine ⟨fun msg n decoded => ?_, fun failed => execRsDecode_of_none ready failed⟩
  obtain ⟨c, hc, -, hmsg, -⟩ := rsDec_answer decoded
  have hlen : msg.length = 223 := by simp [← hmsg, hc, bufCap, rsK]
  have hn : n ≤ 16 := (rsDec_some decoded).2
  have frame := bufStore_keepsBytesOutside .msg msg s
  rw [hlen] at frame
  exact ⟨_, execRsDecode_of_some ready decoded, rfl, Nat.mod_eq_of_lt (by omega), hn, bufAll_bufStore .msg msg s hlen, frame⟩

/-- R149: the syndromes are the values at alpha^1, ..., alpha^32. -/
theorem allZero_syndromes_iff (c : List Byte) :
    allZero (syndromes c) = true ↔ ∀ j, 1 ≤ j → j ≤ 32 → hornerHigh (alphaPow j) c 0#8 = 0#8 := by
  simp only [allZero, syndromes, rsNpar, rsGap, rsFcr, one_mul, List.all_map, List.all_eq_true, List.mem_range,
    Function.comp_apply, beq_iff_eq]
  constructor
  · intro h j h1 h32
    have hj := h (j - 1) (by omega)
    rwa [Nat.add_sub_cancel' h1] at hj
  · exact fun h j hj => h (1 + j) (by omega) (by omega)

/-- Settles O34: the decoder verifies its answer (R153), and corrects at most 16 bytes. -/
theorem decoderIsSound : Obligations.DecoderIsSound := by
  unfold Obligations.DecoderIsSound
  intro r msg n hr h
  obtain ⟨c, hc, clean, hmsg, hdist⟩ := rsDec_answer h
  exact ⟨(rsDec_some h).2, c, hc.trans hr, (allZero_syndromes_iff c).mp clean, hmsg, hdist⟩

end Sys2Proof.Proofs
end

section
/-! PROOFS. GF(256) (40_rs_codec.md R140 to R142): GF.mul by its loop, the 255 powers of alpha, and that XOR and GF.mul make the bytes
a field. Later proofs compute in any field that models it (`GfModel`), with Mathlib's sum and product. -/

namespace Sys2Proof.Proofs

open Sys2Proof.Machine Sys2Proof.Laws

/-! ## Multiplication by alpha -/

theorem gfXtime_eq (a : Byte) :
    gfXtime a = (if a.getLsbD 7 then (a.setWidth 9 <<< 1) ^^^ 0x187#9 else a.setWidth 9 <<< 1).setWidth 8 := by
  simp [gfXtime, rsPoly]

/-- R141: within eight bits the reduction is by 0x87. -/
theorem gfXtime_eq_shift (a : Byte) : gfXtime a = (a <<< 1) ^^^ (if a.getLsbD 7 then 0x87#8 else 0#8) := by
  have hshift : (a.setWidth 9 <<< 1).setWidth 8 = a <<< 1 := by
    apply BitVec.eq_of_getLsbD_eq
    intro i hi
    simp [hi]
  rw [gfXtime_eq]
  split
  · rw [BitVec.setWidth_xor, hshift]
    rfl
  · rw [hshift, BitVec.xor_zero]

theorem gfXtime_xor (a b : Byte) : gfXtime (a ^^^ b) = gfXtime a ^^^ gfXtime b := by
  have hbit : (if (a ^^^ b).getLsbD 7 then 0x87#8 else 0#8) =
      (if a.getLsbD 7 then 0x87#8 else 0#8) ^^^ (if b.getLsbD 7 then 0x87#8 else 0#8) := by
    rw [BitVec.getLsbD_xor]
    cases a.getLsbD 7 <;> cases b.getLsbD 7 <;> rfl
  simp only [gfXtime_eq_shift, hbit, BitVec.shiftLeft_xor_distrib]
  ac_rfl

/-- R142: alpha^k is k multiplications by alpha. -/
theorem gfPowGo_eq_iterate (k : Nat) (x : Byte) : gfPowGo k x = gfXtime^[k] x := by
  induction k generalizing x with
  | zero => rfl
  | succ k ih => simp [gfPowGo, ih]

/-- R142: alpha^255 = 1. -/
theorem alpha_periodic : Function.IsPeriodicPt gfXtime 255 1#8 := by decide +kernel

theorem alphaPow_eq_iterate (k : Nat) : alphaPow k = gfXtime^[k] 1#8 := by
  rw [alphaPow, gfPowGo_eq_iterate, alpha_periodic.iterate_mod_apply]

/-! ## The product -/

/-- R141: the loop is linear in its multiplicand and its accumulator. -/
theorem gfMulGo_xor (n : Nat) (a a' b r r' : Byte) :
    gfMulGo n (a ^^^ a') b (r ^^^ r') = gfMulGo n a b r ^^^ gfMulGo n a' b r' := by
  induction n generalizing a a' b r r' with
  | zero => rfl
  | succ n ih =>
    simp only [gfMulGo, strict_eq, gfXtime_xor, ← ih]
    split
    · congr 1
      ac_rfl
    · rfl

theorem gfMulGo_xtime (n : Nat) (a b r : Byte) : gfMulGo n (gfXtime a) b (gfXtime r) = gfXtime (gfMulGo n a b r) := by
  induction n generalizing a b r with
  | zero => rfl
  | succ n ih =>
    simp only [gfMulGo, strict_eq, ← ih]
    split <;> simp [gfXtime_xor]

theorem gfMul_xor_left (a a' b : Byte) : gfMul (a ^^^ a') b = gfMul a b ^^^ gfMul a' b := gfMulGo_xor 8 a a' b 0#8 0#8

theorem gfMul_iterate (k : Nat) (a b : Byte) : gfMul (gfXtime^[k] a) b = gfXtime^[k] (gfMul a b) := by
  induction k generalizing a with
  | zero => rfl
  | succ k ih =>
    rw [Function.iterate_succ_apply, Function.iterate_succ_apply, ih]
    exact congrArg _ (gfMulGo_xtime 8 a b 0#8)

theorem gfMul_one_left : ∀ b : Byte, gfMul 1#8 b = b := by decide +kernel

theorem gfMul_alphaPow (k : Nat) (b : Byte) : gfMul (alphaPow k) b = gfXtime^[k] b := by
  rw [alphaPow_eq_iterate, gfMul_iterate, gfMul_one_left]

theorem gfMul_alphaPow_alphaPow (i j : Nat) : gfMul (alphaPow i) (alphaPow j) = alphaPow (i + j) := by
  rw [gfMul_alphaPow, alphaPow_eq_iterate, alphaPow_eq_iterate, Function.iterate_add_apply]

/-! ## The powers of alpha -/

/-- R142: alpha has order 255: no proper divisor of 255 is a period. -/
theorem alpha_minimalPeriod : Function.minimalPeriod gfXtime 1#8 = 255 := by
  have divisors : ∀ d ∈ Nat.divisors 255, d = 255 ∨ d ∣ 15 ∨ d ∣ 51 ∨ d ∣ 85 := by decide +kernel
  have short : ∀ n ∈ [15, 51, 85], ¬Function.IsPeriodicPt gfXtime n 1#8 := by decide +kernel
  have hdvd := Nat.mem_divisors.mpr ⟨alpha_periodic.minimalPeriod_dvd, by decide⟩
  simp only [Function.isPeriodicPt_iff_minimalPeriod_dvd, List.forall_mem_cons] at short
  obtain ⟨h15, h51, h85, -⟩ := short
  rcases divisors _ hdvd with h | h | h | h
  · exact h
  · exact absurd h h15
  · exact absurd h h51
  · exact absurd h h85

theorem alphaPow_injOn {i j : Nat} (hi : i < 255) (hj : j < 255) (h : alphaPow i = alphaPow j) : i = j := by
  rw [alphaPow_eq_iterate, alphaPow_eq_iterate] at h
  exact Function.iterate_injOn_Iio_minimalPeriod (by simpa [alpha_minimalPeriod] using hi)
    (by simpa [alpha_minimalPeriod] using hj) h

theorem alphaPow_ne_zero (k : Nat) : alphaPow k ≠ 0#8 := by
  intro h
  have hone : gfMul (alphaPow k) (alphaPow (255 * k - k)) = 1#8 := by
    rw [gfMul_alphaPow_alphaPow, Nat.add_sub_cancel' (by omega), alphaPow, Nat.mul_mod_right]
    rfl
  rw [h, gfMul_zero_left] at hone
  exact absurd hone (by decide)

/-- R142: the powers of alpha run through every nonzero byte: they are 255 different ones. -/
theorem exists_alphaPow {a : Byte} (ha : a ≠ 0#8) : ∃ k, k < 255 ∧ alphaPow k = a := by
  have hinj : Set.InjOn alphaPow (Finset.range 255) := fun i hi j hj =>
    alphaPow_injOn (by simpa using hi) (by simpa using hj)
  have hsub : (Finset.range 255).image alphaPow ⊆ Finset.univ.erase 0#8 := by
    intro x hx
    obtain ⟨k, -, rfl⟩ := Finset.mem_image.mp hx
    simp [alphaPow_ne_zero]
  have hcard : (Finset.univ.erase (0#8 : Byte)).card ≤ ((Finset.range 255).image alphaPow).card := by
    rw [Finset.card_image_of_injOn hinj, Finset.card_erase_of_mem (Finset.mem_univ _), Finset.card_range]
    exact le_of_eq (by decide +kernel)
  have hmem : a ∈ (Finset.range 255).image alphaPow := by
    rw [Finset.eq_of_subset_of_card_le hsub hcard]
    simp [ha]
  simpa using hmem

/-- R142: the search finds the first exponent it is given. -/
theorem gfLogGo_eq_some {n : Nat} {a x : Byte} {k i : Nat} (hi : i < n) (found : gfXtime^[i] x = a)
    (first : ∀ j, j < i → gfXtime^[j] x ≠ a) : gfLogGo n a k x = some (k + i) := by
  induction n generalizing x k i with
  | zero => omega
  | succ n ih =>
    simp only [gfLogGo, strict_eq]
    cases i with
    | zero => exact if_pos found
    | succ i =>
      have hx : x ≠ a := first 0 (by omega)
      have hrest := ih (x := gfXtime x) (k := k + 1) (i := i) (by omega) found fun j hj => first (j + 1) (by omega)
      rw [if_neg hx, hrest, Nat.add_right_comm, Nat.add_assoc]

theorem gfLog_alphaPow {k : Nat} (hk : k < 255) : gfLog (alphaPow k) = some k := by
  have hlog := gfLogGo_eq_some (k := 0) hk (alphaPow_eq_iterate k).symm fun j hj h =>
    absurd (alphaPow_injOn (by omega) hk ((alphaPow_eq_iterate j).trans h)) (by omega)
  simpa [gfLog] using hlog

theorem gfInv_alphaPow {k : Nat} (hk : k < 255) : gfInv (alphaPow k) = alphaPow (255 - k) := by
  simp [gfInv, gfLog_alphaPow hk]

/-! ## The field -/

theorem gfMul_zero_right (a : Byte) : gfMul a 0#8 = 0#8 := by
  by_cases ha : a = 0#8
  · rw [ha, gfMul_zero_left]
  · obtain ⟨k, -, rfl⟩ := exists_alphaPow ha
    rw [gfMul_alphaPow]
    exact Function.iterate_fixed gfXtime_zero k

theorem gfMul_comm (a b : Byte) : gfMul a b = gfMul b a := by
  by_cases ha : a = 0#8
  · rw [ha, gfMul_zero_left, gfMul_zero_right]
  by_cases hb : b = 0#8
  · rw [hb, gfMul_zero_left, gfMul_zero_right]
  obtain ⟨i, -, rfl⟩ := exists_alphaPow ha
  obtain ⟨j, -, rfl⟩ := exists_alphaPow hb
  rw [gfMul_alphaPow_alphaPow, gfMul_alphaPow_alphaPow, Nat.add_comm]

theorem gfMul_assoc (a b c : Byte) : gfMul (gfMul a b) c = gfMul a (gfMul b c) := by
  by_cases ha : a = 0#8
  · simp [ha]
  · obtain ⟨k, -, rfl⟩ := exists_alphaPow ha
    rw [gfMul_alphaPow, gfMul_alphaPow, gfMul_iterate]

theorem gfMul_xor_right (a b c : Byte) : gfMul a (b ^^^ c) = gfMul a b ^^^ gfMul a c := by
  simp only [gfMul_comm a, gfMul_xor_left]

theorem gfMul_gfInv {a : Byte} (ha : a ≠ 0#8) : gfMul a (gfInv a) = 1#8 := by
  obtain ⟨k, hk, rfl⟩ := exists_alphaPow ha
  rw [gfInv_alphaPow hk, gfMul_alphaPow_alphaPow, Nat.add_sub_cancel' hk.le]
  rfl

/-- R140 to R142: the bytes as a field; 0 stands in for the inverse of 0, which the rules leave undefined. -/
abbrev gfField : Field Byte :=
  @Field.ofMinimalAxioms Byte ⟨(· ^^^ ·)⟩ ⟨gfMul⟩ ⟨id⟩ ⟨fun a => if a = 0#8 then 0#8 else gfInv a⟩ ⟨0#8⟩ ⟨1#8⟩
    BitVec.xor_assoc (fun _ => BitVec.zero_xor) (fun _ => BitVec.xor_self) gfMul_assoc gfMul_comm gfMul_one_left
    (fun a (ha : a ≠ 0#8) => (congrArg (gfMul a) (if_neg ha)).trans (gfMul_gfInv ha)) (if_pos rfl) gfMul_xor_right
    ⟨0#8, 1#8, by decide⟩

/-- A field in which bytes add by XOR and multiply by GF.mul: what the code's proofs use of GF(256). -/
structure GfModel (F : Type) [Field F] where
  val : Byte → F
  val_injective : Function.Injective val
  val_xor : ∀ a b, val (a ^^^ b) = val a + val b
  val_gfMul : ∀ a b, val (gfMul a b) = val a * val b

/-- R140, R141: GF(256) is a field, and of characteristic 2. -/
theorem exists_gfModel : ∃ (F : Type) (_ : Field F) (_ : CharP F 2), Nonempty (GfModel F) :=
  ⟨Byte, gfField,
    @CharTwo.of_one_ne_zero_of_two_eq_zero Byte gfField.toNonAssocSemiring.toAddMonoidWithOne (fun h : (1#8 : Byte) = 0#8 => absurd h (by decide))
      (by
        rw [← @one_add_one_eq_two Byte gfField.toNonAssocSemiring.toAddMonoidWithOne]
        exact BitVec.xor_self),
    ⟨@GfModel.mk Byte gfField id Function.injective_id (fun _ _ => rfl) fun _ _ => rfl⟩⟩

namespace GfModel

variable {F : Type} [Field F] (φ : GfModel F)

@[simp] theorem val_zero : φ.val 0#8 = 0 := by simpa using φ.val_xor 0#8 0#8

theorem val_eq_zero {a : Byte} : φ.val a = 0 ↔ a = 0#8 := by rw [← φ.val_zero, φ.val_injective.eq_iff]

@[simp] theorem val_one : φ.val 1#8 = 1 := by
  have hne : φ.val 1#8 ≠ 0 := by rw [ne_eq, val_eq_zero]; decide
  have hsq := φ.val_gfMul 1#8 1#8
  rw [gfMul_one_left] at hsq
  exact (mul_eq_left₀ hne).mp hsq.symm

theorem val_gfInv {a : Byte} (ha : a ≠ 0#8) : φ.val (gfInv a) = (φ.val a)⁻¹ := by
  rw [eq_comm, inv_eq_iff_eq_inv, eq_comm]
  apply inv_eq_of_mul_eq_one_left
  rw [← φ.val_gfMul, gfMul_gfInv ha, val_one]

/-- The primitive element alpha, as an element of the field. -/
def alpha : F := φ.val 2#8

theorem val_alphaPow (k : Nat) : φ.val (alphaPow k) = φ.alpha ^ k := by
  induction k with
  | zero => exact φ.val_one.trans (pow_zero _).symm
  | succ k ih =>
    rw [← gfMul_alphaPow_alphaPow, φ.val_gfMul, ih, pow_succ]
    rfl

end GfModel

end Sys2Proof.Proofs
end

section
/-! PROOFS. Coefficient lists as polynomials over a model of GF(256) (40_rs_codec.md R143, R149 to R152), and the encoder: its shift
register divides by the generator, so that what it appends makes a codeword (R144 to R146). -/

namespace Sys2Proof.Proofs

open Sys2Proof.Machine Sys2Proof.Laws
open Polynomial

namespace GfModel

variable {F : Type} [Field F] (φ : GfModel F)

/-! ## Sums and Horner's rule -/

theorem val_foldl_xor (f : Nat → Byte) (n : Nat) (a : Byte) :
    φ.val ((List.range n).foldl (fun t i => t ^^^ f i) a) = φ.val a + ∑ i ∈ Finset.range n, φ.val (f i) := by
  induction n with
  | zero => simp
  | succ n ih => simp [List.range_succ, ih, φ.val_xor, Finset.sum_range_succ, add_assoc]

/-- R149: Horner's rule, from an accumulator. -/
theorem val_hornerHigh_acc (x : Byte) (l : List Byte) (acc : Byte) :
    φ.val (hornerHigh x l acc) =
      φ.val acc * φ.val x ^ l.length + ∑ i ∈ Finset.range l.length, φ.val (l.getD i 0#8) * φ.val x ^ (l.length - 1 - i) := by
  induction l generalizing acc with
  | nil => simp [hornerHigh]
  | cons c l ih =>
    have hterm : ∀ i, l.length + 1 - 1 - (i + 1) = l.length - 1 - i := fun i => by omega
    simp only [hornerHigh_cons, ih, φ.val_xor, φ.val_gfMul, List.length_cons, Finset.sum_range_succ', List.getD_cons_succ,
      List.getD_cons_zero, hterm]
    simp only [Nat.add_sub_cancel, Nat.sub_zero]
    ring

/-- R143, R149: Horner's rule gives the value of the polynomial whose highest coefficient comes first. -/
theorem val_hornerHigh (x : Byte) (l : List Byte) :
    φ.val (hornerHigh x l 0#8) = ∑ i ∈ Finset.range l.length, φ.val (l.getD i 0#8) * φ.val x ^ (l.length - 1 - i) := by
  simp [val_hornerHigh_acc]

/-- Horner's rule over a sequence goes on where it stopped. -/
theorem val_hornerHigh_append (x : Byte) (l l' : List Byte) :
    φ.val (hornerHigh x (l ++ l') 0#8) = φ.val (hornerHigh x l 0#8) * φ.val x ^ l'.length + φ.val (hornerHigh x l' 0#8) := by
  have happ : ∀ acc, hornerHigh x (l ++ l') acc = hornerHigh x l' (hornerHigh x l acc) := by
    induction l with
    | nil => exact fun _ => rfl
    | cons c l ih => simp [hornerHigh_cons, ih]
  rw [happ, val_hornerHigh_acc, val_hornerHigh φ x l']

/-! ## Coefficient lists -/

/-- The polynomial of a coefficient list, degree 0 first. -/
noncomputable def poly : List Byte → F[X]
  | [] => 0
  | a :: l => C (φ.val a) + X * poly l

theorem coeff_poly (l : List Byte) (k : Nat) : (φ.poly l).coeff k = φ.val (l.getD k 0#8) := by
  induction l generalizing k with
  | nil => simp [poly]
  | cons a l ih =>
    cases k with
    | zero => simp [poly]
    | succ k => simp [poly, ih]

/-- R149: Horner's rule over the reversed list evaluates its polynomial. -/
theorem val_hornerHigh_reverse (x : Byte) (l : List Byte) :
    φ.val (hornerHigh x l.reverse 0#8) = (φ.poly l).eval (φ.val x) := by
  induction l with
  | nil => simp [poly, hornerHigh]
  | cons a l ih =>
    rw [List.reverse_cons, val_hornerHigh_append, ih]
    simp [poly, hornerHigh, mul_comm, add_comm]

theorem val_polyEval (l : List Byte) (x : Byte) : φ.val (polyEval l x) = (φ.poly l).eval (φ.val x) :=
  φ.val_hornerHigh_reverse x l

theorem poly_polyAdd (p q : List Byte) : φ.poly (polyAdd p q) = φ.poly p + φ.poly q := by
  induction p generalizing q with
  | nil => simp [polyAdd, poly]
  | cons a p ih =>
    cases q with
    | nil => simp [polyAdd, poly]
    | cons b q =>
      simp only [polyAdd, poly, ih, φ.val_xor, C_add]
      ring

theorem poly_polyScale (c : Byte) (p : List Byte) : φ.poly (polyScale c p) = C (φ.val c) * φ.poly p := by
  induction p with
  | nil => simp [polyScale, poly]
  | cons a p ih =>
    have hcons : polyScale c (a :: p) = gfMul c a :: polyScale c p := rfl
    rw [hcons, poly, ih, φ.val_gfMul, C_mul, poly]
    ring

theorem poly_zero_cons (p : List Byte) : φ.poly (0#8 :: p) = X * φ.poly p := by simp [poly]

theorem poly_polyShift (m : Nat) (p : List Byte) : φ.poly (polyShift m p) = X ^ m * φ.poly p := by
  induction m with
  | zero => simp [polyShift]
  | succ m ih =>
    have hsucc : polyShift (m + 1) p = 0#8 :: polyShift m p := rfl
    rw [hsucc, poly_zero_cons, ih]
    ring

theorem poly_polyMul (p q : List Byte) : φ.poly (polyMul p q) = φ.poly p * φ.poly q := by
  induction p with
  | nil => simp [polyMul, poly]
  | cons a p ih =>
    rw [polyMul, poly_polyAdd, poly_polyScale, poly_zero_cons, ih, poly]
    ring

theorem coeff_poly_take (n : Nat) (p : List Byte) (k : Nat) :
    (φ.poly (p.take n)).coeff k = if k < n then (φ.poly p).coeff k else 0 := by
  simp only [coeff_poly, List.getD_eq_getElem?_getD, List.getElem?_take]
  split <;> simp

/-- R152: in characteristic 2 only the odd terms are left of the derivative. -/
theorem poly_polyDeriv [CharP F 2] (p : List Byte) : φ.poly (polyDeriv p) = derivative (φ.poly p) := by
  ext k
  have hget : (polyDeriv p).getD k 0#8 = if k % 2 = 0 then p.getD (k + 1) 0#8 else 0#8 := by
    simp only [polyDeriv, List.getD_eq_getElem?_getD, List.getElem?_mapIdx, List.getElem?_tail]
    cases p[k + 1]? <;> simp
  rw [coeff_poly, hget, coeff_derivative, coeff_poly]
  rcases Nat.even_or_odd k with heven | hodd
  · have hone : ((k : F) + 1) = 1 := by rw [CharTwo.natCast_eq_ite, if_pos heven, zero_add]
    rw [if_pos (Nat.even_iff.mp heven), hone, mul_one]
  · have hzero : ((k : F) + 1) = 0 := by
      rw [CharTwo.natCast_eq_ite, if_neg (Nat.not_even_iff_odd.mpr hodd), CharTwo.add_self_eq_zero]
    rw [if_neg (by rw [Nat.odd_iff.mp hodd]; decide), hzero, mul_zero, val_zero]

end GfModel

end Sys2Proof.Proofs
end

section
/-! PROOFS. The encoder (40_rs_codec.md R141 to R146, R158): GF.mul by its turns, what Horner's rule computes of a codeword, and that the
shift register divides by the generator, so that what it appends makes a codeword. -/

namespace Sys2Proof.Proofs

open Sys2Proof.Machine Sys2Proof.Laws
open Polynomial

/-! ## The rules as the statements put them -/

/-- R141: from turn k on the loop does the turns that are left. -/
theorem gfMulGo_eq_turns {a b : Byte} {r x : Nat → Byte} (h : gfMulTurns a b r x) (n k : Nat) (hnk : n + k = 8) :
    gfMulGo n (x k) (b >>> k) (r k) = r 8 := by
  obtain ⟨-, -, turn⟩ := h
  induction n generalizing k with
  | zero =>
    rw [Nat.zero_add] at hnk
    rw [hnk]
    rfl
  | succ n ih =>
    obtain ⟨hr, hx⟩ := turn k (by omega)
    have hbit : (b >>> k).getLsbD 0 = b.getLsbD k := by simp
    rw [gfMulGo, strict_eq, strict_eq, hbit, ← hr, gfXtime_eq, ← hx, ← BitVec.shiftRight_add]
    exact ih (k + 1) (by omega)

theorem gfMul_eq_turns {a b : Byte} {r x : Nat → Byte} (h : gfMulTurns a b r x) : gfMul a b = r 8 := by
  have hgo := gfMulGo_eq_turns h 8 0 rfl
  obtain ⟨hr, hx, -⟩ := h
  rwa [hr, hx] at hgo

theorem alphaPow_succ (k : Nat) : alphaPow (k + 1) = gfMul (alphaPow k) 0x02#8 := (gfMul_alphaPow_alphaPow k 1).symm

/-- R143, R149: Horner's rule gives a codeword's value at alpha^j. -/
theorem hornerHigh_eq_codewordValue (c : List Byte) (j : Nat) (hc : c.length = 255) :
    hornerHigh (alphaPow j) c 0#8 = codewordValue c j := by
  obtain ⟨F, _, -, ⟨φ⟩⟩ := exists_gfModel
  apply φ.val_injective
  rw [codewordValue, φ.val_foldl_xor, φ.val_hornerHigh, hc, φ.val_zero, zero_add]
  refine Finset.sum_congr rfl fun i _ => ?_
  rw [φ.val_gfMul, φ.val_alphaPow, φ.val_alphaPow, pow_mul]

/-! ## The shift register -/

theorem xorBytes_length (a b : List Byte) (h : a.length = b.length) : (xorBytes a b).length = a.length := by simp [xorBytes, h]

theorem getD_zipWith_xor (a b : List Byte) (i : Nat) :
    (List.zipWith (· ^^^ ·) a b).getD i 0#8 = if i < min a.length b.length then a.getD i 0#8 ^^^ b.getD i 0#8 else 0#8 := by
  split
  · next hi =>
    obtain ⟨ha, hb⟩ := lt_min_iff.mp hi
    rw [List.getD_eq_getElem _ _ (by simpa using hi), List.getElem_zipWith, List.getD_eq_getElem _ _ ha, List.getD_eq_getElem _ _ hb]
  · next hi => exact List.getD_eq_default _ _ (List.length_zipWith.trans_le (Nat.not_lt.mp hi))

theorem getD_xorBytes (a b : List Byte) (h : a.length = b.length) (i : Nat) :
    (xorBytes a b).getD i 0#8 = a.getD i 0#8 ^^^ b.getD i 0#8 := by
  rw [xorBytes, getD_zipWith_xor, ← h, min_self]
  split
  · rfl
  · next hi => simp [Nat.not_lt.mp hi, h ▸ Nat.not_lt.mp hi]

theorem getD_polyScale (c : Byte) (p : List Byte) (i : Nat) : (polyScale c p).getD i 0#8 = gfMul c (p.getD i 0#8) := by
  simpa [gfMul_zero_right, polyScale] using List.getD_map (f := gfMul c) (l := p) (d := 0#8) (n := i)

/-- R146: a turn shifts the register up and adds the generator fb times; byte 31 falls out, byte 0 comes in as 0. -/
theorem getD_rsShift {rem : List Byte} (hrem : rem.length = 32) (fb : Byte) (i : Nat) :
    (rsShift rem fb).getD i 0#8 =
      if i < 32 then (0#8 :: rem).getD i 0#8 ^^^ gfMul fb (rsGenLow.getD i 0#8) else 0#8 := by
  have hmin : min (0#8 :: rem).length (polyScale fb rsGenLow).length = 32 := by simp [hrem, polyScale]
  rw [rsShift, getD_zipWith_xor, hmin, getD_polyScale]

theorem hornerHigh_singleton (x c : Byte) : hornerHigh x [c] 0#8 = c := by simp [hornerHigh]

namespace GfModel

variable {F : Type} [Field F] (φ : GfModel F)

theorem poly_rsShift {rem : List Byte} (hrem : rem.length = 32) (fb : Byte) :
    φ.poly (rsShift rem fb) + C (φ.val (rem.getD 31 0#8)) * X ^ 32 = X * φ.poly rem + C (φ.val fb) * φ.poly rsGenLow := by
  ext k
  rw [← φ.poly_zero_cons]
  simp only [coeff_add, coeff_C_mul, coeff_X_pow, coeff_poly, getD_rsShift hrem]
  rcases Nat.lt_trichotomy k 32 with hk | rfl | hk
  · simp [hk, hk.ne, φ.val_xor, φ.val_gfMul]
  · simp
  · have hrem' : rem.length ≤ k - 1 := by omega
    have hcons : (0#8 :: rem).getD k 0#8 = 0#8 := List.getD_eq_default _ _ (by simp; omega)
    have hgen : rsGenLow.getD k 0#8 = 0#8 := List.getD_eq_default _ _ (by simp; omega)
    rw [hcons, hgen]
    simp [hk.not_gt, hk.ne']

/-- R144: alpha^1, ..., alpha^32 are roots of the generator, whose highest coefficient is 1. -/
theorem eval_rsGenLow [CharP F 2] {j : Nat} (h1 : 1 ≤ j) (h32 : j ≤ 32) :
    (φ.poly rsGenLow).eval (φ.val (alphaPow j)) = φ.val (alphaPow j) ^ 32 := by
  have roots : ∀ i < 32, strict (alphaPow (i + 1)) (fun x => hornerHigh x ([0x01#8] ++ rsGenLow.reverse) 0#8) = 0#8 := by
    decide +kernel
  have hroot := roots (j - 1) (by omega)
  rw [strict_eq, Nat.sub_add_cancel h1, ← φ.val_eq_zero, val_hornerHigh_append, val_hornerHigh_reverse, hornerHigh_singleton,
    val_one, one_mul, List.length_reverse, rsGenLow_length] at hroot
  exact (CharTwo.add_eq_zero.mp hroot).symm

/-- R146: at a root of the generator the register holds the message so far, times x^32. -/
theorem eval_rsEncGo {x : Byte} (root : (φ.poly rsGenLow).eval (φ.val x) = φ.val x ^ 32) (msg rem : List Byte)
    (hrem : rem.length = 32) :
    (φ.poly (rsEncGo msg rem)).eval (φ.val x) =
      (φ.poly rem).eval (φ.val x) * φ.val x ^ msg.length + φ.val (hornerHigh x msg 0#8) * φ.val x ^ 32 := by
  induction msg generalizing rem with
  | nil => simp [rsEncGo, hornerHigh]
  | cons m msg ih =>
    have hturn := congrArg (eval (φ.val x)) (φ.poly_rsShift hrem (m ^^^ rem.getD 31 0#8))
    simp only [eval_add, eval_mul, eval_C, eval_pow, eval_X, root, φ.val_xor] at hturn
    have hrem' : (φ.poly (rsShift rem (m ^^^ rem.getD 31 0#8))).eval (φ.val x) =
        φ.val x * (φ.poly rem).eval (φ.val x) + φ.val m * φ.val x ^ 32 := by linear_combination hturn
    rw [rsEncGo, strict_eq, ih _ (rsShift_length _ _ hrem), hrem', ← List.singleton_append, val_hornerHigh_append,
      hornerHigh_singleton, List.length_append, List.length_singleton]
    ring

end GfModel

/-- R145, R146: the encoder's words vanish at alpha^1, ..., alpha^32. -/
theorem hornerHigh_rsEnc (m : List Byte) {j : Nat} (h1 : 1 ≤ j) (h32 : j ≤ 32) : hornerHigh (alphaPow j) (rsEnc m) 0#8 = 0#8 := by
  obtain ⟨F, _, _, ⟨φ⟩⟩ := exists_gfModel
  have hzero : φ.poly (List.replicate rsNpar 0#8) = 0 := by
    ext k
    simp [φ.coeff_poly]
  rw [← φ.val_eq_zero, rsEnc, φ.val_hornerHigh_append, rsParity_length, rsParity, φ.val_hornerHigh_reverse,
    φ.eval_rsEncGo (φ.eval_rsGenLow h1 h32) m (List.replicate rsNpar 0#8) rfl, hzero, eval_zero, zero_mul, zero_add,
    CharTwo.add_self_eq_zero]

theorem rsEnc_isCodeword {m : List Byte} (hm : m.length = 223) : isCodeword (rsEnc m) :=
  ⟨by rw [rsEnc_length, hm], fun _ h1 h32 => hornerHigh_rsEnc m h1 h32⟩

theorem rsEnc_take {m : List Byte} (hm : m.length = 223) : (rsEnc m).take 223 = m := by
  rw [rsEnc, ← hm, List.take_left]

/-! ## Linearity -/

theorem rsShift_xor {rem rem' : List Byte} (h : rem.length = 32) (h' : rem'.length = 32) (fb fb' : Byte) :
    rsShift (xorBytes rem rem') (fb ^^^ fb') = xorBytes (rsShift rem fb) (rsShift rem' fb') := by
  have hx : (xorBytes rem rem').length = 32 := (xorBytes_length _ _ (h.trans h'.symm)).trans h
  have hs : (rsShift rem fb).length = (rsShift rem' fb').length := by simp [rsShift_length, h, h']
  refine List.ext_getElem (by simp [xorBytes, rsShift_length, h, h']) fun i hi hi' => ?_
  rw [← List.getD_eq_getElem _ 0#8 hi, ← List.getD_eq_getElem _ 0#8 hi', getD_xorBytes _ _ hs, getD_rsShift hx, getD_rsShift h,
    getD_rsShift h']
  rw [rsShift_length _ _ hx] at hi
  simp only [hi, if_true, gfMul_xor_left]
  cases i with
  | zero => simp
  | succ i =>
    simp only [List.getD_cons_succ, getD_xorBytes _ _ (h.trans h'.symm)]
    ac_rfl

theorem rsEncGo_xor (a b rem rem' : List Byte) (hab : a.length = b.length) (h : rem.length = 32) (h' : rem'.length = 32) :
    rsEncGo (xorBytes a b) (xorBytes rem rem') = xorBytes (rsEncGo a rem) (rsEncGo b rem') := by
  induction a generalizing b rem rem' with
  | nil =>
    obtain rfl : b = [] := by simpa using hab.symm
    rfl
  | cons x a ih =>
    cases b with
    | nil => simp at hab
    | cons y b =>
      have hcons : xorBytes (x :: a) (y :: b) = (x ^^^ y) :: xorBytes a b := rfl
      have hfb : (x ^^^ y) ^^^ (xorBytes rem rem').getD 31 0#8 = (x ^^^ rem.getD 31 0#8) ^^^ (y ^^^ rem'.getD 31 0#8) := by
        rw [getD_xorBytes _ _ (h.trans h'.symm)]
        ac_rfl
      simp only [hcons, rsEncGo, strict_eq, hfb, rsShift_xor h h']
      exact ih b _ _ (by simpa using hab) (rsShift_length _ _ h) (rsShift_length _ _ h')

/-- R158 (c): the encoder is linear over XOR. -/
theorem rsEnc_xor {a b : List Byte} (hab : a.length = b.length) : rsEnc (xorBytes a b) = xorBytes (rsEnc a) (rsEnc b) := by
  have hzero : xorBytes (List.replicate rsNpar 0#8) (List.replicate rsNpar 0#8) = List.replicate rsNpar 0#8 := by decide
  have hparity : rsParity (xorBytes a b) = xorBytes (rsParity a) (rsParity b) := by
    simp only [rsParity]
    rw [← hzero, rsEncGo_xor a b (List.replicate rsNpar 0#8) (List.replicate rsNpar 0#8) hab rfl rfl, hzero]
    exact List.reverse_zipWith (by simp [rsEncGo_length, rsNpar])
  rw [rsEnc, hparity]
  exact (List.zipWith_append hab).symm

/-- R146's example: the message that is 1 leaves the generator's coefficients. -/
theorem rsEnc_one : rsEnc (List.replicate 222 0x00#8 ++ [0x01#8]) = List.replicate 222 0x00#8 ++ [0x01#8] ++ rsGenHigh := by
  have hparity : (rsEncGo [1#8] (List.replicate 32 0#8)).reverse = rsGenHigh := by decide +kernel
  rw [rsEnc, rsParity, rsNpar, rsEncGo_zeros, hparity]

/-- Settles O33: the field's rules, the polynomial of a codeword, and the encoder's systematic linear code. -/
theorem encodingGivesSystematicCodewords : Obligations.EncodingGivesSystematicCodewords := by
  unfold Obligations.EncodingGivesSystematicCodewords
  refine ⟨fun a b r x => gfMul_eq_turns, ⟨rfl, alphaPow_succ⟩, fun a ha => ?_, hornerHigh_eq_codewordValue, rsEnc_one,
    fun m hm => ⟨(rsEnc_isCodeword hm).1, rsEnc_take hm, fun j => hornerHigh_rsEnc m⟩, fun a b ha hb => rsEnc_xor (ha.trans hb.symm)⟩
  obtain ⟨k, hk, rfl⟩ := exists_alphaPow ha
  exact ⟨k, hk, gfLog_alphaPow hk, rfl, gfInv_alphaPow hk⟩

/-- Settles O35: a codeword has no syndrome, and the decoder returns its message as it stands. -/
theorem rsRoundTrip : Obligations.RsRoundTrip := by
  unfold Obligations.RsRoundTrip
  intro m hm
  have clean : allZero (syndromes (rsEnc m)) = true := (allZero_syndromes_iff _).mpr fun j => hornerHigh_rsEnc m
  simp only [rsDec, clean, if_true, rsK, rsEnc_take hm]

end Sys2Proof.Proofs
end

section
/-! PROOFS. The algebra of the decoder (40_rs_codec.md R147, R150 to R152), over any field: which polynomials predict a sequence as
linear recurrences, the invariant of Berlekamp-Massey, and the locator and the evaluator of an error pattern, which the sequence of
its power sums determines. -/

namespace Sys2Proof.Proofs

open Polynomial

/-! ## Products, coefficient by coefficient -/

section Coefficients

variable {F : Type} [Field F]

/-- Where a polynomial vanishes below n as far down as A reaches, coefficient n of the product is A's head times its own. -/
theorem coeff_mul_eq_head {A P : F[X]} {a n : ℕ} (hA : A.natDegree ≤ a) (hP : ∀ k, n ≤ k + a → k < n → P.coeff k = 0) :
    (A * P).coeff n = A.coeff 0 * P.coeff n := by
  rw [coeff_mul]
  refine Finset.sum_eq_single (0, n) (fun ⟨i, j⟩ hij hne => ?_) fun h => absurd (by simp) h
  have hsum : i + j = n := by simpa using hij
  rcases Nat.lt_or_ge a i with hi | hi
  · simp [coeff_eq_zero_of_natDegree_lt (hA.trans_lt hi)]
  · have hj : j ≠ n := fun h => hne (by rw [Prod.mk.injEq]; omega)
    simp [hP j (by omega) (by omega)]

theorem coeff_mul_eq_zero {A P : F[X]} {a b k : ℕ} (hA : A.natDegree ≤ a) (hP : ∀ j, b ≤ j → P.coeff j = 0) (hk : a + b ≤ k) :
    (A * P).coeff k = 0 := by
  rw [coeff_mul]
  refine Finset.sum_eq_zero fun ⟨i, j⟩ hij => ?_
  have hsum : i + j = k := by simpa using hij
  rcases Nat.lt_or_ge a i with hi | hi
  · simp [coeff_eq_zero_of_natDegree_lt (hA.trans_lt hi)]
  · simp [hP j (by omega)]

end Coefficients

/-! ## Linear recurrences -/

section Recurrences

variable {F : Type} [Field F]

/-- A, read as a linear recurrence of length a, predicts the coefficients of S below n from the a before each. -/
structure Predicts (S A : F[X]) (a n : ℕ) : Prop where
  head : A.coeff 0 = 1
  degree : A.natDegree ≤ a
  vanish : ∀ k, a ≤ k → k < n → (A * S).coeff k = 0

theorem Predicts.mono {S A : F[X]} {a m n : ℕ} (h : Predicts S A a n) (hmn : m ≤ n) : Predicts S A a m :=
  ⟨h.head, h.degree, fun k ha hk => h.vanish k ha (hk.trans_le hmn)⟩

/-- Massey's bound: a recurrence that predicts where A fails makes up with it more than n. -/
theorem Predicts.lt_add_of_misses {S A B : F[X]} {a b n : ℕ} (hA : Predicts S A a n) (misses : (A * S).coeff n ≠ 0)
    (hB : Predicts S B b (n + 1)) : n < a + b := by
  by_contra hle
  have hhead : (B * (A * S)).coeff n = (A * S).coeff n := by
    rw [coeff_mul_eq_head hB.degree fun k hk => hA.vanish k (by omega), hB.head, one_mul]
  have hzero : (A * (B * S)).coeff n = 0 := by
    rw [coeff_mul_eq_head hA.degree fun k hk hkn => hB.vanish k (by omega) (by omega), hB.vanish n (by omega) (by omega),
      mul_zero]
  exact misses (by rw [← hhead, mul_left_comm, hzero])

/-! ## Berlekamp-Massey -/

/-- R150 before turn n: Lam predicts the first n symbols, with the least length that can; and B, moved up by m, is 0 against S at the
places that Lam must keep and b at place n. -/
structure BmInvariant (S lam prev : F[X]) (len shift : ℕ) (scale : F) (n : ℕ) : Prop where
  len_le : len ≤ n
  predicts : Predicts S lam len n
  shortest : ∀ B b, Predicts S B b n → len ≤ b
  scale_ne : scale ≠ 0
  shift_pos : 0 < shift
  prev_degree : prev.natDegree + shift + len ≤ n + 1
  prev_coeff : ∀ k, n + 1 ≤ k + len → k ≤ n → (X ^ shift * prev * S).coeff k = if k = n then scale else 0

theorem BmInvariant.start (S : F[X]) : BmInvariant S 1 1 0 1 1 0 where
  len_le := le_rfl
  predicts := ⟨coeff_one_zero, natDegree_one.le, fun k _ hk => absurd hk k.not_lt_zero⟩
  shortest _ b _ := b.zero_le
  scale_ne := one_ne_zero
  shift_pos := Nat.one_pos
  prev_degree := by simp
  prev_coeff k h1 h2 := by omega

variable {S lam prev : F[X]} {len shift n : ℕ} {scale : F}

/-- One more turn moves B up by one place. -/
theorem BmInvariant.prev_coeff_succ (h : BmInvariant S lam prev len shift scale n) (k : ℕ) (hk : n + 2 ≤ k + len)
    (hkn : k ≤ n + 1) : (X ^ (shift + 1) * prev * S).coeff k = if k = n + 1 then scale else 0 := by
  have hlen := h.len_le
  obtain ⟨i, rfl⟩ : ∃ i, k = i + 1 := ⟨k - 1, by omega⟩
  have hX : X ^ (shift + 1) * prev * S = X * (X ^ shift * prev * S) := by ring
  simpa [hX] using h.prev_coeff i (by omega) (by omega)

/-- R150, d = 0: Lam predicts symbol n too. -/
theorem BmInvariant.keep (h : BmInvariant S lam prev len shift scale n) (hd : (lam * S).coeff n = 0) :
    BmInvariant S lam prev len (shift + 1) scale (n + 1) where
  len_le := h.len_le.trans n.le_succ
  predicts := ⟨h.predicts.head, h.predicts.degree, fun k hk hkn => by
    rcases Nat.lt_succ_iff_lt_or_eq.mp hkn with hlt | rfl
    · exact h.predicts.vanish k hk hlt
    · exact hd⟩
  shortest B b hB := h.shortest B b (hB.mono n.le_succ)
  scale_ne := h.scale_ne
  shift_pos := shift.succ_pos
  prev_degree := by have := h.prev_degree; omega
  prev_coeff := h.prev_coeff_succ

variable [CharP F 2]

/-- R150: the corrected Lam predicts symbol n too, at a length that leaves B's places out. -/
theorem BmInvariant.corrected (h : BmInvariant S lam prev len shift scale n) {len' : ℕ} (hlen : len ≤ len')
    (hlen' : n + 1 ≤ len + len') :
    Predicts S (lam + C ((lam * S).coeff n * scale⁻¹) * (X ^ shift * prev)) len' (n + 1) where
  head := by simp [h.predicts.head, mul_assoc, h.shift_pos.ne]
  degree := by
    have hprev := h.prev_degree
    refine natDegree_add_le_of_degree_le (h.predicts.degree.trans hlen) ((natDegree_C_mul_le _ _).trans ?_)
    exact (natDegree_mul_le_of_le (natDegree_X_pow_le shift) le_rfl).trans (by omega)
  vanish k hk hkn := by
    have hshape : (lam + C ((lam * S).coeff n * scale⁻¹) * (X ^ shift * prev)) * S =
        lam * S + C ((lam * S).coeff n * scale⁻¹) * (X ^ shift * prev * S) := by ring
    rw [hshape, coeff_add, coeff_C_mul, h.prev_coeff k (by omega) (by omega)]
    rcases Nat.lt_succ_iff_lt_or_eq.mp hkn with hlt | rfl
    · rw [h.predicts.vanish k (by omega) hlt, if_neg hlt.ne, mul_zero, add_zero]
    · rw [if_pos rfl, inv_mul_cancel_right₀ h.scale_ne, CharTwo.add_self_eq_zero]

/-- R150, 2L > n: the length stays. -/
theorem BmInvariant.adjust (h : BmInvariant S lam prev len shift scale n) (hn : n < 2 * len) :
    BmInvariant S (lam + C ((lam * S).coeff n * scale⁻¹) * (X ^ shift * prev)) prev len (shift + 1) scale (n + 1) where
  len_le := h.len_le.trans n.le_succ
  predicts := h.corrected le_rfl (by omega)
  shortest B b hB := h.shortest B b (hB.mono n.le_succ)
  scale_ne := h.scale_ne
  shift_pos := shift.succ_pos
  prev_degree := by have := h.prev_degree; omega
  prev_coeff := h.prev_coeff_succ

/-- R150, 2L ≤ n: the length grows to n + 1 - L, which Massey's bound asks for, and the old Lam becomes B. -/
theorem BmInvariant.lengthen (h : BmInvariant S lam prev len shift scale n) (hn : 2 * len ≤ n) (hd : (lam * S).coeff n ≠ 0) :
    BmInvariant S (lam + C ((lam * S).coeff n * scale⁻¹) * (X ^ shift * prev)) lam (n + 1 - len) 1 ((lam * S).coeff n)
      (n + 1) where
  len_le := by omega
  predicts := h.corrected (by omega) (by omega)
  shortest B b hB := by have := h.predicts.lt_add_of_misses hd hB; omega
  scale_ne := hd
  shift_pos := Nat.one_pos
  prev_degree := by have := h.predicts.degree; omega
  prev_coeff k hk hkn := by
    obtain ⟨i, rfl⟩ : ∃ i, k = i + 1 := ⟨k - 1, by omega⟩
    rw [pow_one, mul_assoc, coeff_X_mul]
    rcases Nat.lt_or_ge i n with hlt | hge
    · rw [h.predicts.vanish i (by omega) hlt, if_neg (by omega)]
    · obtain rfl : i = n := by omega
      rw [if_pos rfl]

end Recurrences

/-! ## Error patterns -/

section Patterns

variable {F : Type} [Field F] {E : Finset ℕ} {a e : ℕ → F}

/-- R151: the polynomial whose roots are the inverses of the locators a. -/
noncomputable def locator (E : Finset ℕ) (a : ℕ → F) : F[X] := ∏ p ∈ E, (1 - C (a p) * X)

/-- R152: the error evaluator of the pattern with locators a and values e. -/
noncomputable def evaluator (E : Finset ℕ) (a e : ℕ → F) : F[X] := ∑ p ∈ E, C (e p * a p) * locator (E.erase p) a

/-- R149: the first n syndromes of the pattern. -/
noncomputable def powerSums (E : Finset ℕ) (a e : ℕ → F) (n : ℕ) : F[X] :=
  ∑ j ∈ Finset.range n, C (∑ p ∈ E, e p * a p ^ (j + 1)) * X ^ j

theorem coeff_powerSums (n k : ℕ) : (powerSums E a e n).coeff k = if k < n then ∑ p ∈ E, e p * a p ^ (k + 1) else 0 := by
  simp only [powerSums, finsetSum_coeff, coeff_C_mul_X_pow, Finset.sum_ite_eq, Finset.mem_range]

theorem locator_eq_mul_erase {p : ℕ} (hp : p ∈ E) : locator E a = (1 - C (a p) * X) * locator (E.erase p) a :=
  (Finset.mul_prod_erase E _ hp).symm

theorem eval_locator_eq_zero {x : F} : (locator E a).eval x = 0 ↔ ∃ p ∈ E, a p * x = 1 := by
  rw [locator, eval_prod, Finset.prod_eq_zero_iff]
  simp [sub_eq_zero, eq_comm (a := (1 : F))]

theorem locator_coeff_zero : (locator E a).coeff 0 = 1 := by simp [coeff_zero_eq_eval_zero, locator, eval_prod]

theorem locator_ne_zero : locator E a ≠ 0 := fun h => by simpa [h] using (locator_coeff_zero (E := E) (a := a))

theorem natDegree_factor_le (c : F) : (1 - C c * X : F[X]).natDegree ≤ 1 := by compute_degree

theorem natDegree_locator_le : (locator E a).natDegree ≤ E.card :=
  (natDegree_prod_le _ _).trans ((Finset.sum_le_card_nsmul _ _ 1 fun _ _ => natDegree_factor_le _).trans (by simp))

theorem evaluator_coeff_eq_zero {k : ℕ} (hk : E.card ≤ k) : (evaluator E a e).coeff k = 0 := by
  rw [evaluator, finsetSum_coeff]
  refine Finset.sum_eq_zero fun p hp => ?_
  have hpos : 0 < E.card := Finset.card_pos.mpr ⟨p, hp⟩
  have hdeg := natDegree_locator_le (E := E.erase p) (a := a)
  rw [Finset.card_erase_of_mem hp] at hdeg
  rw [coeff_C_mul, coeff_eq_zero_of_natDegree_lt (by omega), mul_zero]

/-- R152: the key equation: the locator times the syndromes is the evaluator, up to terms of degree n. -/
theorem key_equation (n : ℕ) : X ^ n ∣ evaluator E a e - locator E a * powerSums E a e n := by
  have hsums : powerSums E a e n = ∑ p ∈ E, C (e p * a p) * ∑ j ∈ Finset.range n, (C (a p) * X) ^ j := by
    simp only [powerSums, map_sum, Finset.sum_mul, Finset.mul_sum]
    rw [Finset.sum_comm]
    refine Finset.sum_congr rfl fun p _ => Finset.sum_congr rfl fun j _ => ?_
    simp only [C_mul, C_pow]
    ring
  rw [hsums, evaluator, Finset.mul_sum, ← Finset.sum_sub_distrib]
  refine Finset.dvd_sum fun p hp => ⟨C (e p * a p) * locator (E.erase p) a * C (a p) ^ n, ?_⟩
  have hgeom : (1 - C (a p) * X) * ∑ j ∈ Finset.range n, (C (a p) * X) ^ j = 1 - (C (a p) * X) ^ n := mul_neg_geom_sum _ n
  rw [locator_eq_mul_erase hp]
  linear_combination -(C (e p * a p) * locator (E.erase p) a) * hgeom

/-- R150: the locator predicts all the syndromes of its pattern. -/
theorem locator_predicts (n : ℕ) : Predicts (powerSums E a e n) (locator E a) E.card n where
  head := locator_coeff_zero
  degree := natDegree_locator_le
  vanish k hk hkn := by
    have hzero := X_pow_dvd_iff.mp (key_equation (E := E) (a := a) (e := e) n) k hkn
    rw [coeff_sub, evaluator_coeff_eq_zero hk, zero_sub, neg_eq_zero] at hzero
    exact hzero

/-! ### The values of a pattern with different locators and no zero value -/

section Distinct

variable (ha : Set.InjOn a E) (ha0 : ∀ p, a p ≠ 0) (he : ∀ p ∈ E, e p ≠ 0)

include ha ha0 in
theorem eval_locator_erase_ne_zero {p : ℕ} (hp : p ∈ E) : (locator (E.erase p) a).eval (a p)⁻¹ ≠ 0 := by
  rw [ne_eq, eval_locator_eq_zero]
  rintro ⟨q, hq, hinv⟩
  obtain ⟨hne, hqE⟩ := Finset.mem_erase.mp hq
  exact hne (ha hqE hp ((mul_inv_eq_one₀ (ha0 p)).mp hinv))

include ha0 in
theorem eval_evaluator {p : ℕ} (hp : p ∈ E) :
    (evaluator E a e).eval (a p)⁻¹ = e p * a p * (locator (E.erase p) a).eval (a p)⁻¹ := by
  rw [evaluator, eval_finsetSum, Finset.sum_eq_single_of_mem p hp, eval_mul, eval_C]
  intro q hq hne
  rw [eval_mul, eval_locator_eq_zero.mpr ⟨p, Finset.mem_erase.mpr ⟨hne.symm, hp⟩, mul_inv_cancel₀ (ha0 p)⟩, mul_zero]

include ha0 in
theorem eval_derivative_locator {p : ℕ} (hp : p ∈ E) :
    (derivative (locator E a)).eval (a p)⁻¹ = -(a p * (locator (E.erase p) a).eval (a p)⁻¹) := by
  rw [locator_eq_mul_erase hp, derivative_mul, eval_add, eval_mul, eval_mul]
  simp [mul_inv_cancel₀ (ha0 p)]

include ha ha0 in
theorem eval_derivative_locator_ne_zero {p : ℕ} (hp : p ∈ E) : (derivative (locator E a)).eval (a p)⁻¹ ≠ 0 := by
  rw [eval_derivative_locator ha0 hp]
  exact neg_ne_zero.mpr (mul_ne_zero (ha0 p) (eval_locator_erase_ne_zero ha ha0 hp))

include ha ha0 in
/-- R152: Forney's formula. -/
theorem forney_formula {p : ℕ} (hp : p ∈ E) :
    (evaluator E a e).eval (a p)⁻¹ * ((derivative (locator E a)).eval (a p)⁻¹)⁻¹ = -e p := by
  have hrest := eval_locator_erase_ne_zero ha ha0 hp
  have hp0 := ha0 p
  rw [eval_evaluator ha0 hp, eval_derivative_locator ha0 hp]
  generalize (locator (E.erase p) a).eval (a p)⁻¹ = rest at hrest
  field_simp

include ha ha0 he in
theorem eval_evaluator_ne_zero {p : ℕ} (hp : p ∈ E) : (evaluator E a e).eval (a p)⁻¹ ≠ 0 := by
  rw [eval_evaluator ha0 hp]
  exact mul_ne_zero (mul_ne_zero (he p hp) (ha0 p)) (eval_locator_erase_ne_zero ha ha0 hp)

/-! ### What predicts the syndromes of a pattern -/

variable {lam om : F[X]} {len n : ℕ}

/-- R152: a recurrence for all the syndromes, with its product by them cut off at n, stands to the evaluator as to the locator. -/
theorem Predicts.cross (h : Predicts (powerSums E a e n) lam len n) (hlen : len + E.card ≤ n)
    (hom : ∀ k, om.coeff k = if k < n then (lam * powerSums E a e n).coeff k else 0) :
    locator E a * om = lam * evaluator E a e := by
  ext k
  rcases Nat.lt_or_ge k n with hk | hk
  · have hcut : X ^ n ∣ om - lam * powerSums E a e n :=
      X_pow_dvd_iff.mpr fun d hd => by rw [coeff_sub, hom, if_pos hd, sub_self]
    have hdvd : X ^ n ∣ locator E a * om - lam * evaluator E a e := by
      have hboth := dvd_sub (hcut.mul_left (locator E a)) ((key_equation (E := E) (a := a) (e := e) n).mul_left lam)
      convert hboth using 1
      ring
    have hzero := X_pow_dvd_iff.mp hdvd k hk
    rwa [coeff_sub, sub_eq_zero] at hzero
  · have homDegree : ∀ j, len ≤ j → om.coeff j = 0 := fun j hj => by
      rw [hom]
      split
      · next hjn => exact h.vanish j hj hjn
      · rfl
    rw [coeff_mul_eq_zero natDegree_locator_le homDegree (by omega),
      coeff_mul_eq_zero h.degree (fun j hj => evaluator_coeff_eq_zero hj) (by omega)]

include ha ha0 he in
/-- R147, R150: within half the distance the shortest recurrence is the locator: it has the same roots and the same head. -/
theorem Predicts.eq_locator (h : Predicts (powerSums E a e n) lam len n) (hlen : len ≤ E.card) (hn : 2 * E.card ≤ n)
    (hom : ∀ k, om.coeff k = if k < n then (lam * powerSums E a e n).coeff k else 0) : lam = locator E a := by
  classical
  have hcross := h.cross (by omega) hom
  have hroot : ∀ p ∈ E, lam.eval (a p)⁻¹ = 0 := fun p hp => by
    have hp' := congrArg (eval (a p)⁻¹) hcross
    rw [eval_mul, eval_mul, eval_locator_eq_zero.mpr ⟨p, hp, mul_inv_cancel₀ (ha0 p)⟩, zero_mul] at hp'
    exact (mul_eq_zero.mp hp'.symm).resolve_right (eval_evaluator_ne_zero ha ha0 he hp)
  have hcard : (insert 0 (E.image fun p => (a p)⁻¹)).card = E.card + 1 := by
    rw [Finset.card_insert_of_notMem, Finset.card_image_of_injOn (f := fun p => (a p)⁻¹) (inv_injective.comp_injOn ha)]
    simpa using fun p _ => ha0 p
  have hdegree : ∀ P : F[X], P.natDegree ≤ E.card → P.degree < (insert 0 (E.image fun p => (a p)⁻¹)).card := fun P hP => by
    rw [hcard]
    exact (degree_le_of_natDegree_le hP).trans_lt (by exact_mod_cast E.card.lt_succ_self)
  refine eq_of_degrees_lt_of_eval_finset_eq _ (hdegree _ (h.degree.trans hlen)) (hdegree _ natDegree_locator_le) fun x hx => ?_
  rcases Finset.mem_insert.mp hx with rfl | hx
  · rw [← coeff_zero_eq_eval_zero, ← coeff_zero_eq_eval_zero, h.head, locator_coeff_zero]
  · obtain ⟨p, hp, rfl⟩ := Finset.mem_image.mp hx
    rw [hroot p hp, eval_locator_eq_zero.mpr ⟨p, hp, mul_inv_cancel₀ (ha0 p)⟩]

include ha0 in
theorem natDegree_locator : (locator E a).natDegree = E.card := by
  have hfactor : ∀ p ∈ E, (1 - C (a p) * X : F[X]).natDegree = 1 := fun p _ => by
    have hlinear : (1 - C (a p) * X : F[X]) = C (-a p) * X + C 1 := by rw [C_neg, C_1]; ring
    rw [hlinear, natDegree_linear (neg_ne_zero.mpr (ha0 p))]
  rw [locator, natDegree_prod _ _ fun p hp h => by simpa [h] using hfactor p hp, Finset.sum_congr rfl hfactor, Finset.sum_const,
    smul_eq_mul, mul_one]

end Distinct

end Patterns

end Sys2Proof.Proofs
end

section
/-! PROOFS. The decoder (40_rs_codec.md R147 to R153, R158): its loops compute the polynomials of the error pattern, so that it corrects
every word within distance 16 of a codeword, and no other. -/

namespace Sys2Proof.Proofs

open Sys2Proof.Machine Sys2Proof.Laws
open Polynomial

/-! ## The distance -/

theorem hamming_eq_sum (a b : List Byte) (h : a.length = b.length) :
    hamming a b = ∑ i ∈ Finset.range a.length, if a.getD i 0#8 = b.getD i 0#8 then 0 else 1 := by
  induction a generalizing b with
  | nil => simp [hamming]
  | cons x a ih =>
    cases b with
    | nil => simp at h
    | cons y b =>
      have hcons : hamming (x :: a) (y :: b) = (if x = y then 0 else 1) + hamming a b := by simp [hamming]
      rw [hcons, ih b (by simpa using h), List.length_cons, Finset.sum_range_succ', add_comm]
      rfl

theorem hamming_set_self {c : List Byte} {p : Nat} {x : Byte} (hp : p < c.length) (hx : x ≠ c.getD p 0#8) :
    hamming (c.set p x) c = 1 := by
  rw [hamming_eq_sum _ _ List.length_set, List.length_set, Finset.sum_eq_single_of_mem p (Finset.mem_range.mpr hp)]
  · rwa [List.getD_eq_getElem _ _ (by simpa using hp), List.getElem_set_self, if_neg]
  · intro i _ hne
    simp [List.getD_eq_getElem?_getD, List.getElem?_set_ne hne.symm]

theorem hamming_xorBytes_self (c e : List Byte) (h : c.length = e.length) : hamming (xorBytes c e) c = e.countP (· != 0#8) := by
  induction c generalizing e with
  | nil =>
    obtain rfl : e = [] := by simpa using h.symm
    rfl
  | cons x c ih =>
    cases e with
    | nil => simp at h
    | cons y e =>
      have hcons : hamming (xorBytes (x :: c) (y :: e)) (x :: c) = (if x ^^^ y = x then 0 else 1) + hamming (xorBytes c e) c := by
        simp [hamming, xorBytes]
      rw [hcons, ih e (by simpa using h), List.countP_cons]
      by_cases hy : y = 0#8 <;> simp [hy, add_comm]

/-! ## Where two words differ -/

/-- R151: the exponents p at whose byte 254 - p two words differ. -/
def errorPlaces (r c : List Byte) : Finset ℕ := (Finset.range 255).filter fun p => r.getD (254 - p) 0#8 ≠ c.getD (254 - p) 0#8

theorem mem_errorPlaces {r c : List Byte} {p : ℕ} :
    p ∈ errorPlaces r c ↔ p < 255 ∧ r.getD (254 - p) 0#8 ≠ c.getD (254 - p) 0#8 := by
  rw [errorPlaces, Finset.mem_filter, Finset.mem_range]

theorem card_errorPlaces {r c : List Byte} (hr : r.length = 255) (hc : c.length = 255) :
    (errorPlaces r c).card = hamming r c := by
  rw [hamming_eq_sum r c (hr.trans hc.symm), hr, ← Finset.sum_range_reflect, errorPlaces, Finset.card_filter]
  exact Finset.sum_congr rfl fun p _ => by simp only [ne_eq, ite_not, Nat.reduceSub]

theorem eq_of_getD_eq {r c : List Byte} (hr : r.length = 255) (hc : c.length = 255)
    (h : ∀ p, p < 255 → r.getD (254 - p) 0#8 = c.getD (254 - p) 0#8) : r = c := by
  refine List.ext_getElem (hr.trans hc.symm) fun i hi hi' => ?_
  have hp := h (254 - i) (by omega)
  rwa [Nat.sub_sub_self (by omega), List.getD_eq_getElem _ _ hi, List.getD_eq_getElem _ _ hi'] at hp

theorem eq_of_hamming_eq_zero {r c : List Byte} (hr : r.length = 255) (hc : c.length = 255) (h : hamming r c = 0) : r = c := by
  have hempty := Finset.card_eq_zero.mp ((card_errorPlaces hr hc).trans h)
  refine eq_of_getD_eq hr hc fun p hp => ?_
  by_contra hne
  exact Finset.notMem_empty p (hempty ▸ mem_errorPlaces.mpr ⟨hp, hne⟩)

/-- R152: where Forney's values are the differences, at every place of difference once, the correction gives the other word. -/
theorem correctAt_eq_some {om lam : List Byte} {ps : List Nat} {r c : List Byte} (hr : r.length = 255) (hc : c.length = 255)
    (nodup : ps.Nodup) (inRange : ∀ p ∈ ps, p < 255)
    (agree : ∀ p, p < 255 → p ∉ ps → r.getD (254 - p) 0#8 = c.getD (254 - p) 0#8)
    (values : ∀ p ∈ ps, forneyValue om lam p = some (r.getD (254 - p) 0#8 ^^^ c.getD (254 - p) 0#8)) :
    correctAt om lam ps r = some c := by
  induction ps generalizing r with
  | nil => exact congrArg some (eq_of_getD_eq hr hc fun p hp => agree p hp List.not_mem_nil)
  | cons p ps ih =>
    obtain ⟨hnot, nodup'⟩ := List.nodup_cons.mp nodup
    have hp : p < 255 := inRange p List.mem_cons_self
    have hother : ∀ q, q < 255 → q ≠ p → ∀ x, (r.set (254 - p) x).getD (254 - q) 0#8 = r.getD (254 - q) 0#8 := by
      intro q hq hne x
      rw [List.getD_eq_getElem?_getD, List.getElem?_set_ne (by omega), List.getD_eq_getElem?_getD]
    rw [correctAt, values p List.mem_cons_self]
    refine ih (by simpa using hr) nodup' (fun q hq => inRange q (List.mem_cons_of_mem _ hq)) (fun q hq hqs => ?_) fun q hq => ?_
    · by_cases hqp : q = p
      · subst hqp
        rw [xor_cancel_left, List.getD_eq_getElem _ _ (by rw [List.length_set]; omega), List.getElem_set_self]
      · rw [hother q hq hqp]
        exact agree q hq (by simp [hqp, hqs])
    · have hne : q ≠ p := fun h => hnot (h ▸ hq)
      rw [hother q (inRange q (List.mem_cons_of_mem _ hq)) hne]
      exact values q (List.mem_cons_of_mem _ hq)

/-! ## What the decoder computes from a received word -/

/-- R150: Lam, as the decoder computes it from a received word. -/
def rsLam (r : List Byte) : List Byte := (berlekampMassey (syndromes r)).lam

/-- R152: Om, as the decoder computes it from a received word. -/
def rsOm (r : List Byte) : List Byte := errorEvaluator (syndromes r) (rsLam r)

/-- R149: syndrome j stands at index j - 1. -/
theorem getD_syndromes (r : List Byte) (k : ℕ) :
    (syndromes r).getD k 0#8 = if k < 32 then hornerHigh (alphaPow (k + 1)) r 0#8 else 0#8 := by
  split
  · next hk =>
    rw [List.getD_eq_getElem _ _ (by simpa using hk)]
    simp [syndromes, rsGap, rsFcr, Nat.add_comm]
  · next hk => exact List.getD_eq_default _ _ (by simpa using hk)

namespace GfModel

variable {F : Type} [Field F] (φ : GfModel F)

/-! ## Berlekamp-Massey -/

/-- R150: the variables of the loop, before turn n, meet the invariant. -/
def BmHolds (syn : List Byte) (n : ℕ) (v : BmVars) : Prop :=
  BmInvariant (φ.poly syn) (φ.poly v.lam) (φ.poly v.prev) v.len v.shift (φ.val v.scale) n

variable {φ} {syn : List Byte} {n : ℕ} {v : BmVars}

/-- R150: the discrepancy is what Lam leaves at symbol n. -/
theorem BmHolds.val_discrepancy (h : φ.BmHolds syn n v) :
    φ.val (bmDiscrepancy syn n v) = (φ.poly v.lam * φ.poly syn).coeff n := by
  have hbeyond : ∀ j ∈ Finset.range n, j ∉ Finset.range v.len →
      φ.val (gfMul (v.lam.getD (j + 1) 0#8) (syn.getD (n - (j + 1)) 0#8)) = 0 := fun j _ hj => by
    have hdeg := h.predicts.degree
    rw [φ.val_gfMul, ← φ.coeff_poly v.lam, coeff_eq_zero_of_natDegree_lt (by rw [Finset.mem_range, not_lt] at hj; omega), zero_mul]
  rw [bmDiscrepancy, φ.val_foldl_xor, Finset.sum_subset (Finset.range_mono h.len_le) hbeyond, coeff_mul,
    Finset.Nat.sum_antidiagonal_eq_sum_range_succ_mk, Finset.sum_range_succ', h.predicts.head, add_comm]
  simp only [φ.val_gfMul, φ.coeff_poly, Nat.sub_zero, one_mul]

section CharTwo

variable [CharP F 2]

/-- R150: a turn keeps the invariant. -/
theorem BmHolds.step (h : φ.BmHolds syn n v) : φ.BmHolds syn (n + 1) (bmStep syn n v) := by
  have hd := h.val_discrepancy
  have hscale : v.scale ≠ 0#8 := fun h0 => h.scale_ne (φ.val_eq_zero.mpr h0)
  have hlam : φ.poly (polyAdd v.lam (polyScale (gfMul (bmDiscrepancy syn n v) (gfInv v.scale)) (polyShift v.shift v.prev))) =
      φ.poly v.lam + C ((φ.poly v.lam * φ.poly syn).coeff n * (φ.val v.scale)⁻¹) * (X ^ v.shift * φ.poly v.prev) := by
    rw [poly_polyAdd, poly_polyScale, poly_polyShift, φ.val_gfMul, hd, φ.val_gfInv hscale]
  simp only [bmStep, strict_eq, BmHolds]
  split
  · next hzero => exact BmInvariant.keep h (by rw [← hd, hzero, φ.val_zero])
  · next hne =>
    split
    · next hshort =>
      simpa only [hlam, hd] using BmInvariant.lengthen h hshort fun h0 => hne (φ.val_eq_zero.mp (hd.trans h0))
    · next hlong => simpa only [hlam] using BmInvariant.adjust h (by omega)

theorem BmHolds.go (h : φ.BmHolds syn n v) (k : ℕ) : φ.BmHolds syn (n + k) (bmGo syn k n v) := by
  induction k generalizing n v with
  | zero => exact h
  | succ k ih =>
    have hrest := ih h.step
    rwa [Nat.add_right_comm] at hrest

variable (φ) in
/-- R150: what the loop computes is a shortest recurrence for all the syndromes. -/
theorem berlekampMassey_holds (syn : List Byte) : φ.BmHolds syn 32 (berlekampMassey syn) := by
  have hstart : φ.BmHolds syn 0 { lam := [1#8], prev := [1#8], len := 0, shift := 1, scale := 1#8 } := by
    simpa [BmHolds, poly] using BmInvariant.start (φ.poly syn)
  have hloop := hstart.go 32
  rwa [Nat.zero_add] at hloop

end CharTwo

/-! ## The error pattern of a received word -/

variable (φ)

/-- R151: the locator of place p. -/
def place (p : ℕ) : F := φ.alpha ^ p

/-- R152: by how much two words differ at place p. -/
def difference (r c : List Byte) (p : ℕ) : F := φ.val (r.getD (254 - p) 0#8 ^^^ c.getD (254 - p) 0#8)

theorem eq_of_place_eq {p q : ℕ} (hp : p < 255) (hq : q < 255) (h : φ.place p = φ.place q) : p = q := by
  rw [place, place, ← φ.val_alphaPow, ← φ.val_alphaPow] at h
  exact alphaPow_injOn hp hq (φ.val_injective h)

theorem place_injOn (r c : List Byte) : Set.InjOn φ.place (errorPlaces r c) := fun _ hp _ hq h =>
  φ.eq_of_place_eq (mem_errorPlaces.mp hp).1 (mem_errorPlaces.mp hq).1 h

theorem place_ne_zero (p : ℕ) : φ.place p ≠ 0 := by
  rw [place, ← φ.val_alphaPow, ne_eq, φ.val_eq_zero]
  exact alphaPow_ne_zero p

theorem difference_ne_zero {r c : List Byte} {p : ℕ} (hp : p ∈ errorPlaces r c) : φ.difference r c p ≠ 0 := by
  rw [difference, ne_eq, φ.val_eq_zero, BitVec.xor_eq_zero_iff]
  exact (mem_errorPlaces.mp hp).2

theorem val_alphaPowNeg {p : ℕ} (hp : p < 255) : φ.val (alphaPowNeg p) = (φ.place p)⁻¹ := by
  apply eq_inv_of_mul_eq_one_left
  rw [place, ← φ.val_alphaPow, alphaPowNeg, ← φ.val_gfMul, gfMul_alphaPow_alphaPow, Nat.sub_add_cancel hp.le]
  exact φ.val_one

/-- R149: the syndromes of a received word are the power sums of its difference from a codeword. -/
theorem poly_syndromes {r c : List Byte} (hr : r.length = 255) (hc : isCodeword c) :
    φ.poly (syndromes r) = powerSums (errorPlaces r c) φ.place (φ.difference r c) 32 := by
  obtain ⟨hlen, hroot⟩ := hc
  ext k
  rw [coeff_poly, getD_syndromes, coeff_powerSums]
  split
  · next hk =>
    have hsum : φ.val (hornerHigh (alphaPow (k + 1)) r 0#8) + φ.val (hornerHigh (alphaPow (k + 1)) c 0#8) =
        ∑ p ∈ Finset.range 255, φ.difference r c p * φ.place p ^ (k + 1) := by
      rw [val_hornerHigh, val_hornerHigh, hr, hlen, ← Finset.sum_add_distrib, ← Finset.sum_range_reflect]
      refine Finset.sum_congr rfl fun p hp => ?_
      have hindex : 255 - 1 - p = 254 - p := rfl
      have hpower : 255 - 1 - (254 - p) = p := by have := Finset.mem_range.mp hp; omega
      rw [hindex, hpower, φ.val_alphaPow, ← add_mul, ← φ.val_xor, difference, place, ← pow_mul, ← pow_mul,
        Nat.mul_comm p]
    rw [hroot (k + 1) (by omega) (by omega), φ.val_zero, add_zero] at hsum
    rw [hsum, errorPlaces, Finset.sum_filter_of_ne]
    intro p _ hne heq
    apply hne
    rw [difference, heq, BitVec.xor_self, φ.val_zero, zero_mul]
  · exact φ.val_zero

/-- R152: Om is S times Lam, cut off at x^32. -/
theorem coeff_rsOm (r : List Byte) (k : ℕ) :
    (φ.poly (rsOm r)).coeff k = if k < 32 then (φ.poly (rsLam r) * φ.poly (syndromes r)).coeff k else 0 := by
  have hcut : rsOm r = (polyMul (syndromes r) (rsLam r)).take 32 := rfl
  rw [hcut, coeff_poly_take, poly_polyMul, mul_comm]

/-! ## What the decoder finds within distance 16 -/

section Near

variable [CharP F 2] {r c : List Byte} (hr : r.length = 255) (hc : isCodeword c) (near : hamming r c ≤ 16)

include hr hc near

/-- R150: the loop finds the locator of the error pattern. -/
theorem poly_rsLam : φ.poly (rsLam r) = locator (errorPlaces r c) φ.place := by
  have holds := φ.berlekampMassey_holds (syndromes r)
  have hcard := card_errorPlaces hr hc.1
  rw [BmHolds, φ.poly_syndromes hr hc] at holds
  refine holds.predicts.eq_locator (om := φ.poly (rsOm r)) (φ.place_injOn r c) φ.place_ne_zero
    (fun _ => φ.difference_ne_zero) (holds.shortest _ _ (locator_predicts 32)) (by omega) fun k => ?_
  rw [coeff_rsOm, φ.poly_syndromes hr hc]

/-- R152: Om is the evaluator of the error pattern. -/
theorem poly_rsOm : φ.poly (rsOm r) = evaluator (errorPlaces r c) φ.place (φ.difference r c) := by
  have hcard := card_errorPlaces hr hc.1
  have hcross := (locator_predicts (E := errorPlaces r c) (a := φ.place) (e := φ.difference r c) 32).cross
    (om := φ.poly (rsOm r)) (by omega) fun k => by
      rw [coeff_rsOm, φ.poly_syndromes hr hc, φ.poly_rsLam hr hc near]
  exact mul_left_cancel₀ locator_ne_zero hcross

end Near

end GfModel

section Near

variable {r c : List Byte} (hr : r.length = 255) (hc : isCodeword c) (near : hamming r c ≤ 16)

include hr hc near

/-- R147, R149: no syndrome, no difference: the constant 1 would be the locator. -/
theorem hamming_eq_zero_of_clean (clean : allZero (syndromes r) = true) : hamming r c = 0 := by
  obtain ⟨F, _, _, ⟨φ⟩⟩ := exists_gfModel
  have hcard := card_errorPlaces hr hc.1
  have hpoly : powerSums (errorPlaces r c) φ.place (φ.difference r c) 32 = 0 := by
    ext k
    have hzero := (allZero_syndromes_iff r).mp clean (k + 1) (by omega)
    rw [← φ.poly_syndromes hr hc, φ.coeff_poly, getD_syndromes, coeff_zero, φ.val_eq_zero]
    split
    · exact hzero (by omega)
    · rfl
  have hone : Predicts (powerSums (errorPlaces r c) φ.place (φ.difference r c) 32) 1 0 32 :=
    ⟨coeff_one_zero, natDegree_one.le, fun k _ _ => by rw [hpoly, mul_zero, coeff_zero]⟩
  have hlocator := hone.eq_locator (om := 0) (φ.place_injOn r c) φ.place_ne_zero (fun _ => φ.difference_ne_zero)
    (Nat.zero_le _) (by omega) fun k => by simp [hpoly]
  rw [← hcard, ← natDegree_locator φ.place_ne_zero, ← hlocator, natDegree_one]

theorem len_berlekampMassey : (berlekampMassey (syndromes r)).len = hamming r c := by
  obtain ⟨F, _, _, ⟨φ⟩⟩ := exists_gfModel
  have holds := φ.berlekampMassey_holds (syndromes r)
  have hdegree := holds.predicts.degree
  rw [GfModel.BmHolds, φ.poly_syndromes hr hc] at holds
  change (φ.poly (rsLam r)).natDegree ≤ _ at hdegree
  rw [φ.poly_rsLam hr hc near, natDegree_locator φ.place_ne_zero] at hdegree
  rw [← card_errorPlaces hr hc.1]
  exact le_antisymm (holds.shortest _ _ (locator_predicts 32)) hdegree

/-- R151: the root search finds the places of the errors. -/
theorem mem_errorPositions {p : ℕ} : p ∈ errorPositions (rsLam r) ↔ p ∈ errorPlaces r c := by
  obtain ⟨F, _, _, ⟨φ⟩⟩ := exists_gfModel
  have hlt : p ∈ errorPlaces r c → p < 255 := fun hp => (mem_errorPlaces.mp hp).1
  rw [errorPositions, List.mem_filter, List.mem_range, beq_iff_eq, ← φ.val_eq_zero, φ.val_polyEval,
    φ.poly_rsLam hr hc near, rsN]
  constructor
  · rintro ⟨hp, hroot⟩
    rw [φ.val_alphaPowNeg hp, eval_locator_eq_zero] at hroot
    obtain ⟨q, hq, hinv⟩ := hroot
    exact φ.eq_of_place_eq (mem_errorPlaces.mp hq).1 hp ((mul_inv_eq_one₀ (φ.place_ne_zero p)).mp hinv) ▸ hq
  · intro hp
    rw [φ.val_alphaPowNeg (hlt hp), eval_locator_eq_zero]
    exact ⟨hlt hp, p, hp, mul_inv_cancel₀ (φ.place_ne_zero p)⟩

theorem length_errorPositions : (errorPositions (rsLam r)).length = hamming r c := by
  have hnodup : (errorPositions (rsLam r)).Nodup := List.nodup_range.filter _
  rw [← List.toFinset_card_of_nodup hnodup, ← card_errorPlaces hr hc.1]
  exact congrArg Finset.card (Finset.ext fun p => List.mem_toFinset.trans (mem_errorPositions hr hc near))

/-- R152: Forney's value at a place of error is the difference there. -/
theorem forneyValue_eq {p : ℕ} (hp : p ∈ errorPlaces r c) :
    forneyValue (rsOm r) (rsLam r) p = some (r.getD (254 - p) 0#8 ^^^ c.getD (254 - p) 0#8) := by
  obtain ⟨F, _, _, ⟨φ⟩⟩ := exists_gfModel
  have hx := φ.val_alphaPowNeg (mem_errorPlaces.mp hp).1
  have hden : φ.val (polyEval (polyDeriv (rsLam r)) (alphaPowNeg p)) =
      (derivative (locator (errorPlaces r c) φ.place)).eval (φ.place p)⁻¹ := by
    rw [φ.val_polyEval, φ.poly_polyDeriv, φ.poly_rsLam hr hc near, hx]
  have hne : polyEval (polyDeriv (rsLam r)) (alphaPowNeg p) ≠ 0#8 := fun h => by
    rw [h, φ.val_zero] at hden
    exact eval_derivative_locator_ne_zero (φ.place_injOn r c) φ.place_ne_zero hp hden.symm
  have hone : φ.val (alphaPow (p * (1 - rsFcr))) = 1 := by rw [φ.val_alphaPow, rsFcr, Nat.sub_self, Nat.mul_zero, pow_zero]
  rw [forneyValue, if_neg hne, Option.some.injEq]
  apply φ.val_injective
  rw [φ.val_gfMul, hone, one_mul, φ.val_gfMul, φ.val_gfInv hne, hden, φ.val_polyEval, φ.poly_rsOm hr hc near, hx,
    forney_formula (φ.place_injOn r c) φ.place_ne_zero hp, CharTwo.neg_eq]
  rfl

theorem correctAt_errorPositions :
    correctAt (rsOm r) (rsLam r) (errorPositions (rsLam r)) r = some c := by
  have hmem : ∀ p, p ∈ errorPositions (rsLam r) ↔ p ∈ errorPlaces r c := fun p => mem_errorPositions hr hc near
  refine correctAt_eq_some hr hc.1 (List.nodup_range.filter _) (fun p hp => (mem_errorPlaces.mp ((hmem p).mp hp)).1)
    (fun p hp hnot => ?_) fun p hp => forneyValue_eq hr hc near ((hmem p).mp hp)
  by_contra hne
  exact hnot ((hmem p).mpr (mem_errorPlaces.mpr ⟨hp, hne⟩))

end Near

/-- R148: within distance 16 of a codeword the decoder answers its message and the distance. -/
theorem rsDec_of_near {r c : List Byte} (hr : r.length = 255) (hc : isCodeword c) (near : hamming r c ≤ 16) :
    rsDec r = some (c.take 223, hamming r c) := by
  unfold rsDec
  by_cases clean : allZero (syndromes r) = true
  · have hzero := hamming_eq_zero_of_clean hr hc near clean
    rw [if_pos clean, hzero, eq_of_hamming_eq_zero hr hc.1 hzero, rsK]
  · have hpositions := length_errorPositions hr hc near
    have hcorrect := correctAt_errorPositions hr hc near
    simp only [rsLam, rsOm] at hpositions hcorrect
    simp [clean, len_berlekampMassey hr hc near, hpositions, hcorrect, (allZero_syndromes_iff c).mpr hc.2, rsT, rsK, near.not_gt]

/-- R148: where the decoder answers there is a codeword within distance 16. -/
theorem rsDec_eq_none_of_far {r : List Byte} (hr : r.length = 255) (far : ∀ c, isCodeword c → 16 < hamming r c) :
    rsDec r = none := by
  rw [Option.eq_none_iff_forall_ne_some]
  rintro ⟨msg, n⟩ h
  obtain ⟨hn, c, hc, hroot, -, hdist⟩ := decoderIsSound r msg n hr h
  have hfar := far c ⟨hc, hroot⟩
  omega

/-- Settles O37: a word near a codeword is corrected to it, a word the decoder answers is near one, and an error pattern on an
encoded message is such a word. -/
theorem rsDecodesWithinSixteen : Obligations.RsDecodesWithinSixteen := by
  unfold Obligations.RsDecodesWithinSixteen
  refine ⟨fun r c => rsDec_of_near, fun r hr => ⟨fun failed c hc => ?_, rsDec_eq_none_of_far hr⟩, fun m e hm he few => ?_⟩
  · by_contra near
    rw [rsDec_of_near hr hc (not_lt.mp near)] at failed
    simp at failed
  · have hc := rsEnc_isCodeword hm
    have hdist := hamming_xorBytes_self (rsEnc m) e (hc.1.trans he.symm)
    rw [rsDec_of_near ((xorBytes_length _ _ (hc.1.trans he.symm)).trans hc.1) hc (hdist.trans_le few), hdist, rsEnc_take hm]

/-- Settles O36: one changed byte is distance 1 from the codeword. -/
theorem rsCorrectsOneByte : Obligations.RsCorrectsOneByte := by
  unfold Obligations.RsCorrectsOneByte
  intro m p e hm hp he
  have hc := rsEnc_isCodeword hm
  have hchanged : (rsEnc m).getD p 0#8 ^^^ e ≠ (rsEnc m).getD p 0#8 := by simpa using he
  have hdist := hamming_set_self (hp.trans_eq hc.1.symm) hchanged
  rw [rsDec_of_near (List.length_set.trans hc.1) hc (by omega), hdist, rsEnc_take hm]

end Sys2Proof.Proofs
end

section
/-! PROOFS. The AES-128 cipher (41_aes.md R180 to R184): multiplications modulo 0x11B commute, so that inverses are unique and
the S-box is the affine map of the inverse; the key schedule and the rounds, entry by entry. -/

namespace Sys2Proof.Proofs

open Sys2Proof.Machine Sys2Proof.Laws

/-! ## The product modulo 0x11B -/

theorem aesXtime_xor (a b : Byte) : aesXtime (a ^^^ b) = aesXtime a ^^^ aesXtime b := by
  have hbit : (if (a ^^^ b).getLsbD 7 then 0x1B#8 else 0#8) =
      (if a.getLsbD 7 then 0x1B#8 else 0#8) ^^^ (if b.getLsbD 7 then 0x1B#8 else 0#8) := by
    rw [BitVec.getLsbD_xor]
    cases a.getLsbD 7 <;> cases b.getLsbD 7 <;> rfl
  simp only [aesXtime, hbit, BitVec.shiftLeft_xor_distrib]
  ac_rfl

theorem aesXtime_iterate_xor (k : Nat) (a b : Byte) : aesXtime^[k] (a ^^^ b) = aesXtime^[k] a ^^^ aesXtime^[k] b := by
  induction k generalizing a b with
  | zero => rfl
  | succ k ih => simp only [Function.iterate_succ_apply, aesXtime_xor, ih]

/-- R180: what bit k of b adds to the product. -/
def aesMulTurn (a b r : Byte) (k : Nat) : Byte := if b.getLsbD k then r ^^^ aesXtime^[k] a else r

theorem aesMul_eq (a b : Byte) : aesMul a b = (List.range 8).foldl (aesMulTurn a b) 0#8 := rfl

theorem aesMulTurn_xor (a a' b r r' : Byte) (k : Nat) :
    aesMulTurn (a ^^^ a') b (r ^^^ r') k = aesMulTurn a b r k ^^^ aesMulTurn a' b r' k := by
  unfold aesMulTurn
  split
  · rw [aesXtime_iterate_xor]
    ac_rfl
  · rfl

theorem foldl_aesMulTurn_xor (a a' b : Byte) (l : List Nat) (r r' : Byte) :
    l.foldl (aesMulTurn (a ^^^ a') b) (r ^^^ r') = l.foldl (aesMulTurn a b) r ^^^ l.foldl (aesMulTurn a' b) r' := by
  induction l generalizing r r' with
  | nil => rfl
  | cons k l ih => simp only [List.foldl_cons, aesMulTurn_xor, ih]

theorem aesMul_xor_left (a a' b : Byte) : aesMul (a ^^^ a') b = aesMul a b ^^^ aesMul a' b :=
  foldl_aesMulTurn_xor a a' b (List.range 8) 0#8 0#8

/-- The product with b passes through every additive map that commutes with xtime. -/
theorem map_aesMul {f : Byte → Byte} (hxor : ∀ a b, f (a ^^^ b) = f a ^^^ f b) (hxtime : Function.Commute f aesXtime) (a b : Byte) :
    f (aesMul a b) = aesMul (f a) b := by
  have hzero : f 0#8 = 0#8 := by simpa using hxor 0#8 0#8
  have hturn : ∀ r k, aesMulTurn (f a) b (f r) k = f (aesMulTurn a b r k) := by
    intro r k
    unfold aesMulTurn
    split
    · rw [hxor, (hxtime.iterate_right k).eq]
    · rfl
  rw [aesMul_eq, aesMul_eq, ← List.foldl_hom f hturn, hzero]

theorem aesXtime_aesMul (a b : Byte) : aesXtime (aesMul a b) = aesMul (aesXtime a) b :=
  map_aesMul aesXtime_xor (.refl _) a b

/-- Multiplying by b and by c commute. -/
theorem aesMul_right_comm (a b c : Byte) : aesMul (aesMul a b) c = aesMul (aesMul a c) b :=
  map_aesMul (f := (aesMul · c)) (fun a a' => aesMul_xor_left a a' c) (fun x => (aesXtime_aesMul x c).symm) a b

theorem aesMul_one_left : ∀ b : Byte, aesMul 1#8 b = b := by decide +kernel

/-! ## The S-box -/

/-- R181: the affine map A, bit by bit. -/
def sboxAffineBit (b : Byte) (i : Nat) : Bool :=
  b.getLsbD i ^^ b.getLsbD ((i + 4) % 8) ^^ b.getLsbD ((i + 5) % 8) ^^ b.getLsbD ((i + 6) % 8) ^^
    b.getLsbD ((i + 7) % 8) ^^ (0x63#8).getLsbD i

/-- R181: what the affine map takes to SBOX(a). -/
def aesInv (a : Byte) : Byte :=
  let b := sbox a ^^^ 0x63#8
  b.rotateLeft 1 ^^^ b.rotateLeft 3 ^^^ b.rotateLeft 6

theorem sbox_getLsbD : ∀ a : Byte, ∀ i, i < 8 → (sbox a).getLsbD i = sboxAffineBit (aesInv a) i := by decide +kernel

theorem aesInv_zero : aesInv 0#8 = 0#8 := by decide

theorem aesMul_aesInv : ∀ a : Byte, a ≠ 0#8 → aesMul a (aesInv a) = 1#8 := by decide +kernel

theorem ne_zero_of_aesMul_eq_one {a b : Byte} (h : aesMul a b = 1#8) : a ≠ 0#8 := by
  rintro rfl
  have hzero : ∀ b : Byte, aesMul 0#8 b ≠ 1#8 := by decide +kernel
  exact hzero b h

/-- R181: an inverse is the inverse. -/
theorem eq_aesInv_of_aesMul_eq_one {a b : Byte} (h : aesMul a b = 1#8) : b = aesInv a :=
  calc b = aesMul (aesMul a (aesInv a)) b := by rw [aesMul_aesInv a (ne_zero_of_aesMul_eq_one h), aesMul_one_left]
    _ = aesMul (aesMul a b) (aesInv a) := aesMul_right_comm a (aesInv a) b
    _ = aesInv a := by rw [h, aesMul_one_left]

/-! ## States and round keys as the statements index them -/

/-- The column of four entries. -/
def colOf (f : Nat → Byte) : Col := ⟨f 0, f 1, f 2, f 3⟩

/-- R180: the state of sixteen entries, by row and column. -/
def stateOf (s : Nat → Nat → Byte) : AesState :=
  ⟨colOf fun r => s r 0, colOf fun r => s r 1, colOf fun r => s r 2, colOf fun r => s r 3⟩

/-- R182: the round key of AddRoundKey(n), the words w[4n..4n+4). -/
def roundKeyOf (w : Nat → Nat → Byte) (n : Nat) : AesState := stateOf fun r c => w (4 * n + c) r

theorem colOf_congr {f g : Nat → Byte} (h : ∀ r, r < 4 → f r = g r) : colOf f = colOf g := by
  unfold colOf
  rw [h 0 (by decide), h 1 (by decide), h 2 (by decide), h 3 (by decide)]

theorem stateOf_congr {s t : Nat → Nat → Byte} (h : ∀ r, r < 4 → ∀ c, c < 4 → s r c = t r c) : stateOf s = stateOf t := by
  have hcol : ∀ c, c < 4 → colOf (fun r => s r c) = colOf fun r => t r c := fun c hc => colOf_congr fun r hr => h r hr c hc
  unfold stateOf
  rw [hcol 0 (by decide), hcol 1 (by decide), hcol 2 (by decide), hcol 3 (by decide)]

/-- R180: the output is read back column by column. -/
theorem aesBytes_stateOf_getD (s : Nat → Nat → Byte) {r c : Nat} (hr : r < 4) (hc : c < 4) :
    (aesBytes (stateOf s)).getD (r + 4 * c) 0#8 = s r c := by
  interval_cases r <;> interval_cases c <;> rfl

theorem evalCol_eq (c : Col) : evalCol c = c := by simp [evalCol]

/-- R182: AddRoundKey, entry by entry. -/
theorem addRoundKey_stateOf (k s : Nat → Nat → Byte) : addRoundKey (stateOf k) (stateOf s) = stateOf fun r c => s r c ^^^ k r c := by
  simp only [addRoundKey, evalCol_eq]
  rfl

/-- R182: SubBytes and ShiftRows, entry by entry. -/
theorem shiftRows_subBytes_stateOf (s : Nat → Nat → Byte) : shiftRows (subBytes (stateOf s)) = stateOf (shiftedEntry s) := rfl

/-- R182: MixColumns on the column f: the entry of row r. -/
def mixedEntry (f : Nat → Byte) (r : Nat) : Byte :=
  mixFactor 0 (f r) ^^^ mixFactor 1 (f ((r + 1) % 4)) ^^^ mixFactor 2 (f ((r + 2) % 4)) ^^^ mixFactor 3 (f ((r + 3) % 4))

theorem mixCol_colOf (f : Nat → Byte) : mixCol (colOf f) = colOf (mixedEntry f) := by
  refine Col.mk.injEq .. ▸ ⟨rfl, ?_, ?_, ?_⟩
  · show f 0 ^^^ mul2 (f 1) ^^^ mul3 (f 2) ^^^ f 3 = mul2 (f 1) ^^^ mul3 (f 2) ^^^ f 3 ^^^ f 0
    ac_rfl
  · show f 0 ^^^ f 1 ^^^ mul2 (f 2) ^^^ mul3 (f 3) = mul2 (f 2) ^^^ mul3 (f 3) ^^^ f 0 ^^^ f 1
    ac_rfl
  · show mul3 (f 0) ^^^ f 1 ^^^ f 2 ^^^ mul2 (f 3) = mul2 (f 3) ^^^ mul3 (f 0) ^^^ f 1 ^^^ f 2
    ac_rfl

/-- R182: MixColumns, entry by entry. -/
theorem mixColumns_stateOf (s : Nat → Nat → Byte) :
    mixColumns (stateOf s) = stateOf fun r c => mixedEntry (fun i => s i c) r := by
  unfold stateOf mixColumns
  rw [mixCol_colOf, mixCol_colOf, mixCol_colOf, mixCol_colOf]

/-! ## The key schedule -/

section Schedule

variable {k : List Byte} {w : Nat → Nat → Byte} {n : Nat}

/-- R183: the first word of a round key takes in the last one before it, rotated and substituted, and the round constant. -/
theorem keyWords_head (hw : keyWords k w) (hn : n < 10) :
    colOf (w (4 * (n + 1))) = colXor (colOf (w (4 * n))) (keyCore (rcon.getD n 0#8) (colOf (w (4 * n + 3)))) := by
  obtain ⟨-, hexpand⟩ := hw
  have hconst : 4 * (n + 1) / 4 - 1 = n := by omega
  have hback : 4 * (n + 1) - 4 = 4 * n := by omega
  have hlast : 4 * (n + 1) - 1 = 4 * n + 3 := by omega
  have hword : ∀ r, r < 4 → w (4 * (n + 1)) r = w (4 * n) r ^^^
      (sbox (w (4 * n + 3) ((r + 1) % 4)) ^^^ if r = 0 then rcon.getD n 0#8 else 0#8) := by
    intro r hr
    rw [hexpand _ (by omega) (by omega) r hr, if_pos (by omega), hconst, hback, hlast]
  rw [colOf_congr hword]
  simp [colOf, colXor, keyCore]

/-- R183: each other word of a round key is the word four before it XOR the word before it. -/
theorem keyWords_tail (hw : keyWords k w) (hn : n < 10) {d : Nat} (hd : d < 3) :
    colOf (w (4 * (n + 1) + (d + 1))) = colXor (colOf (w (4 * n + (d + 1)))) (colOf (w (4 * (n + 1) + d))) := by
  obtain ⟨-, hexpand⟩ := hw
  have hback : 4 * (n + 1) + (d + 1) - 4 = 4 * n + (d + 1) := by omega
  have hlast : 4 * (n + 1) + (d + 1) - 1 = 4 * (n + 1) + d := by omega
  have hword : ∀ r, r < 4 → w (4 * (n + 1) + (d + 1)) r = w (4 * n + (d + 1)) r ^^^ w (4 * (n + 1) + d) r := by
    intro r hr
    rw [hexpand _ (by omega) (by omega) r hr, if_neg (by omega), hback, hlast]
  exact colOf_congr hword

theorem roundKeyOf_eq (w : Nat → Nat → Byte) (n : Nat) :
    roundKeyOf w n = ⟨colOf (w (4 * n)), colOf (w (4 * n + 1)), colOf (w (4 * n + 2)), colOf (w (4 * n + 3))⟩ := rfl

/-- R183: the words of a round key give the next four. -/
theorem nextRoundKey_roundKeyOf (hw : keyWords k w) (hn : n < 10) :
    nextRoundKey (rcon.getD n 0#8) (roundKeyOf w n) = roundKeyOf w (n + 1) := by
  have hsecond : colOf (w (4 * (n + 1) + 1)) = colXor (colOf (w (4 * n + 1))) (colOf (w (4 * (n + 1)))) :=
    keyWords_tail hw hn (d := 0) (by decide)
  rw [roundKeyOf_eq w (n + 1), keyWords_tail hw hn (d := 2) (by decide), keyWords_tail hw hn (d := 1) (by decide), hsecond,
    keyWords_head hw hn]
  simp only [nextRoundKey, evalCol_eq]
  rfl

/-- R183: the first four words are the key. -/
theorem roundKeyOf_zero (hw : keyWords k w) : roundKeyOf w 0 = aesLoad k := by
  obtain ⟨hkey, -⟩ := hw
  have hload : aesLoad k = stateOf fun r c => k.getD (4 * c + r) 0#8 := rfl
  rw [hload]
  refine stateOf_congr fun r hr c hc => ?_
  rw [Nat.mul_zero, Nat.zero_add, hkey c hc r hr]

/-- R183: the round keys left after round n. -/
theorem roundKeysGo_drop (hw : keyWords k w) (hn : n < 10) :
    roundKeysGo (rcon.drop n) (roundKeyOf w n) = roundKeyOf w (n + 1) :: roundKeysGo (rcon.drop (n + 1)) (roundKeyOf w (n + 1)) := by
  have hlen : n < rcon.length := hn
  rw [List.drop_eq_getElem_cons hlen, roundKeysGo, ← List.getD_eq_getElem _ 0#8 hlen, nextRoundKey_roundKeyOf hw hn]

end Schedule

/-! ## The rounds -/

/-- R184: while two round keys are left, a round has MixColumns. -/
theorem aesRounds_cons_cons (k k' : AesState) (ks : List AesState) (s : AesState) :
    aesRounds (k :: k' :: ks) s = aesRounds (k' :: ks) (addRoundKey k (mixColumns (shiftRows (subBytes s)))) := rfl

section Rounds

variable {k x : List Byte} {w : Nat → Nat → Byte} {s : Nat → Nat → Nat → Byte}

/-- R184: AddRoundKey(0). -/
theorem addRoundKey_zero (hs : cipherStates x w s) : addRoundKey (roundKeyOf w 0) (aesLoad x) = stateOf (s 0) := by
  obtain ⟨hstart, -, -⟩ := hs
  have hload : aesLoad x = stateOf fun r c => x.getD (r + 4 * c) 0#8 := rfl
  rw [hload, roundKeyOf, addRoundKey_stateOf]
  refine stateOf_congr fun r hr c hc => ?_
  rw [hstart r hr c hc, Nat.mul_zero, Nat.zero_add]

/-- R184: a round with MixColumns. -/
theorem addRoundKey_succ (hs : cipherStates x w s) {n : Nat} (hn : n < 9) :
    addRoundKey (roundKeyOf w (n + 1)) (mixColumns (shiftRows (subBytes (stateOf (s n))))) = stateOf (s (n + 1)) := by
  obtain ⟨-, hround, -⟩ := hs
  rw [shiftRows_subBytes_stateOf, mixColumns_stateOf, roundKeyOf, addRoundKey_stateOf]
  exact stateOf_congr fun r hr c hc => (hround n hn r hr c hc).symm

/-- R184: the last round. -/
theorem addRoundKey_ten (hs : cipherStates x w s) :
    addRoundKey (roundKeyOf w 10) (shiftRows (subBytes (stateOf (s 9)))) = stateOf (s 10) := by
  obtain ⟨-, -, hlast⟩ := hs
  rw [shiftRows_subBytes_stateOf, roundKeyOf, addRoundKey_stateOf]
  exact stateOf_congr fun r hr c hc => (hlast r hr c hc).symm

/-- R184: from the state after AddRoundKey(n) the rounds left lead to that after AddRoundKey(10). -/
theorem aesRounds_stateOf (hw : keyWords k w) (hs : cipherStates x w s) (m n : Nat) (hmn : m + n = 9) :
    aesRounds (roundKeysGo (rcon.drop n) (roundKeyOf w n)) (stateOf (s n)) = stateOf (s 10) := by
  induction m generalizing n with
  | zero =>
    obtain rfl : n = 9 := by omega
    rw [roundKeysGo_drop hw (by decide)]
    exact addRoundKey_ten hs
  | succ m ih =>
    rw [← ih (n + 1) (by omega), roundKeysGo_drop hw (n := n) (by omega), roundKeysGo_drop hw (n := n + 1) (by omega),
      aesRounds_cons_cons, addRoundKey_succ hs (by omega)]

end Rounds

/-- Settles O38: the S-box by the inverse and its uniqueness, the cipher by its rounds. -/
theorem aesCipherFollowsTheRules : Obligations.AesCipherFollowsTheRules := by
  unfold Obligations.AesCipherFollowsTheRules
  refine ⟨fun a b h i hi => ?_, fun a ha => ⟨aesInv a, aesMul_aesInv a ha⟩, fun k x w s _ _ hw hs => ⟨aesEnc_length k x, ?_⟩⟩
  · have hb : b = aesInv a := by
      rcases h with ⟨rfl, rfl⟩ | h
      · exact aesInv_zero.symm
      · exact eq_aesInv_of_aesMul_eq_one h
    rw [hb]
    exact sbox_getLsbD a i hi
  · intro r c hr hc
    have henc : aesEnc k x = aesBytes (stateOf (s 10)) := by
      rw [← aesRounds_stateOf hw hs 9 0 rfl, ← addRoundKey_zero hs, roundKeyOf_zero hw]
      rfl
    rw [henc, aesBytes_stateOf_getD (s 10) hr hc]

end Sys2Proof.Proofs
end

section
/-! PROOFS. Counter mode and GCM (41_aes.md R185 to R189, R195): the key stream byte by byte, masking with it is its own inverse, and
GHASH, mul128 and the big-endian encodings as R186 gives them. -/

namespace Sys2Proof.Proofs

open Sys2Proof.Machine Sys2Proof.Laws

/-! ## Big-endian integers -/

theorem beBytes_getD {n : Nat} (k : Nat) (v : BitVec n) {i : Nat} (hi : i < k) :
    (beBytes k v).getD i 0#8 = v.extractLsb' (8 * (k - 1 - i)) 8 := by
  induction k generalizing i with
  | zero => omega
  | succ k ih =>
    cases i with
    | zero => rfl
    | succ i =>
      have hbyte : k + 1 - 1 - (i + 1) = k - 1 - i := by omega
      rw [hbyte, ← ih (by omega)]
      rfl

/-- R186: reading an encoding puts its bits below those of the accumulator. -/
theorem intBe_go_beBytes_getLsbD {n : Nat} (k : Nat) (v acc : BitVec n) {i : Nat} (hi : i < n) :
    (intBe.go n (beBytes k v) acc).getLsbD i = if i < 8 * k then v.getLsbD i else acc.getLsbD (i - 8 * k) := by
  induction k generalizing acc with
  | zero => rfl
  | succ k ih =>
    rw [beBytes, intBe.go, strict_eq, ih]
    by_cases hlow : i < 8 * k
    · rw [if_pos hlow, if_pos (by omega)]
    · by_cases hbyte : i < 8 * (k + 1)
      · have hpos : 8 * k + (i - 8 * k) = i := by omega
        simp [hlow, hbyte, hpos, show i - 8 * k < 8 by omega, show i - 8 * k < n by omega]
      · have hpos : i - 8 * k - 8 = i - 8 * (k + 1) := by omega
        have hin : i - 8 * (k + 1) < n := by omega
        simp [hlow, hbyte, hpos, show ¬i - 8 * k < 8 by omega, show i - 8 * k < n by omega, BitVec.getLsbD_eq_getElem hin]

theorem intBe_beBytes (v : BitVec 128) : intBe 128 (beBytes 16 v) = v :=
  BitVec.eq_of_getLsbD_eq fun _ hi => (intBe_go_beBytes_getLsbD 16 v 0#128 hi).trans (if_pos hi)

/-! ## mul128 and GHASH -/

/-- R186: from turn 128 - n on mul128's loop does the n turns that are left. -/
theorem mul128Go_eq_rounds {x y : BitVec 128} {z v : Nat → BitVec 128} (h : mulRounds x y z v) (n i : Nat) (hni : n + i = 128) :
    mul128Go x n (z i) (v i) = z 128 := by
  obtain ⟨-, -, turn⟩ := h
  induction n generalizing i with
  | zero =>
    obtain rfl : i = 128 := by omega
    rfl
  | succ n ih =>
    obtain ⟨hz, hv⟩ := turn i (by omega)
    have hbit : n = 127 - i := by omega
    rw [← hbit] at hz
    rw [mul128Go, strict_eq, strict_eq, ← hz, ← hv]
    exact ih (i + 1) (by omega)

theorem mul128_eq_rounds {x y : BitVec 128} {z v : Nat → BitVec 128} (h : mulRounds x y z v) : mul128 x y = z 128 := by
  have hgo := mul128Go_eq_rounds h 128 0 rfl
  obtain ⟨hz, hv, -⟩ := h
  rwa [hz, hv] at hgo

theorem ghashGo_append (h : BitVec 128) (n : Nat) (l b : List Byte) (y : BitVec 128) (hl : l.length = 16 * n) (hb : b.length = 16) :
    ghashGo h (n + 1) (l ++ b) y = mul128 (ghashGo h n l y ^^^ intBe 128 b) h := by
  induction n generalizing l y with
  | zero =>
    obtain rfl : l = [] := List.length_eq_zero_iff.mp hl
    simp [ghashGo, ← hb]
  | succ n ih =>
    have hlong : 16 ≤ l.length := by omega
    rw [ghashGo, strict_eq, List.take_append_of_le_length hlong, List.drop_append_of_le_length hlong, ih _ _ (by simp; omega), ghashGo,
      strict_eq]

/-- R186: GHASH takes in one more block. -/
theorem ghash_append (h : BitVec 128) {l b : List Byte} (hl : l.length % 16 = 0) (hb : b.length = 16) :
    ghash h (l ++ b) = mul128 (ghash h l ^^^ intBe 128 b) h := by
  have hblocks : (l ++ b).length / 16 = l.length / 16 + 1 := by rw [List.length_append]; omega
  rw [ghash, hblocks]
  exact ghashGo_append h _ l b _ (by omega) hb

/-! ## The counters -/

theorem incFull_iterate (m : Nat) (t : BitVec 128) : incFull^[m] t = t + BitVec.ofNat 128 m := by
  induction m with
  | zero => simp
  | succ m ih => rw [Function.iterate_succ_apply', ih, incFull, BitVec.add_assoc, ← BitVec.ofNat_add_ofNat]

theorem inc32_append (hi : BitVec 96) (lo : BitVec 32) : inc32 (hi ++ lo) = hi ++ (lo + 1#32) := by
  rw [inc32, BitVec.extractLsb'_append_eq_left, BitVec.extractLsb'_append_eq_right]

/-- R186: inc32 counts in the low 32 bits. -/
theorem inc32_iterate (m : Nat) (t : BitVec 128) :
    inc32^[m] t = t.extractLsb' 32 96 ++ (t.extractLsb' 0 32 + BitVec.ofNat 32 m) := by
  induction m with
  | zero => rw [BitVec.add_zero, BitVec.extractLsb'_append_extractLsb']; rfl
  | succ m ih => rw [Function.iterate_succ_apply', ih, inc32_append, BitVec.add_assoc, ← BitVec.ofNat_add_ofNat]

/-! ## The key stream -/

/-- R185: byte i of the key stream is byte i mod 16 of block i / 16. -/
theorem keystream_getD (k : List Byte) (inc : BitVec 128 → BitVec 128) (n : Nat) (t : BitVec 128) {i : Nat} (hi : i < 16 * n) :
    (keystream k inc n t).getD i 0#8 = (aesEnc k (beBytes 16 (inc^[i / 16] t))).getD (i % 16) 0#8 := by
  induction n generalizing t i with
  | zero => omega
  | succ n ih =>
    rw [keystream, strict_eq]
    by_cases hfirst : i < 16
    · rw [List.getD_append _ _ _ _ (by simpa using hfirst), Nat.div_eq_of_lt hfirst, Nat.mod_eq_of_lt hfirst]
      rfl
    · have hdiv : i / 16 = (i - 16) / 16 + 1 := by omega
      have hmod : i % 16 = (i - 16) % 16 := by omega
      rw [List.getD_append_right _ _ _ _ (by simpa using hfirst), aesEnc_length, ih _ (by omega), hdiv, hmod,
        Function.iterate_succ_apply]

/-- R185: the key stream reaches to the end of the data. -/
theorem length_le_keystream (k : List Byte) (inc : BitVec 128 → BitVec 128) (t : BitVec 128) (n : Nat) :
    n ≤ (keystream k inc ((n + 15) / 16) t).length := by
  rw [keystream_length]
  omega

/-- R185: byte i of the data is masked by byte i of the key stream. -/
theorem ctrWith_getD (inc : BitVec 128 → BitVec 128) (k : List Byte) (t : BitVec 128) (d : List Byte) {i : Nat} (hi : i < d.length) :
    (ctrWith inc k t d).getD i 0#8 = d.getD i 0#8 ^^^ (aesEnc k (beBytes 16 (inc^[i / 16] t))).getD (i % 16) 0#8 := by
  have hstream := length_le_keystream k inc t d.length
  rw [ctrWith, xorBytes, getD_zipWith_xor, if_pos (by omega), keystream_getD k inc _ t (by omega)]

theorem xorBytes_xorBytes_cancel (d m : List Byte) (h : d.length ≤ m.length) : xorBytes (xorBytes d m) m = d := by
  induction d generalizing m with
  | nil => rfl
  | cons x d ih =>
    cases m with
    | nil => simp at h
    | cons y m =>
      have hrest := ih m (by simpa using h)
      simp only [xorBytes, List.zipWith_cons_cons, BitVec.xor_assoc, BitVec.xor_self, BitVec.xor_zero] at hrest ⊢
      rw [hrest]

/-- R195 (a): masking twice with one key stream restores the data. -/
theorem ctrWith_ctrWith (inc : BitVec 128 → BitVec 128) (k : List Byte) (t : BitVec 128) (d : List Byte) :
    ctrWith inc k t (ctrWith inc k t d) = d := by
  conv_lhs => rw [ctrWith, ctrWith_length]
  exact xorBytes_xorBytes_cancel d _ (length_le_keystream k inc t d.length)

theorem gcmCrypt_gcmCrypt (k iv d : List Byte) : gcmCrypt k iv (gcmCrypt k iv d) = d := ctrWith_ctrWith ..

/-! ## GCM -/

theorem gcmDec_of_tag_eq {k iv c t : List Byte} (h : gcmTag k iv c = t) : gcmDec k iv c t = some (gcmCrypt k iv c) :=
  if_neg (not_not.mpr h)

theorem gcmDec_of_tag_ne {k iv c t : List Byte} (h : gcmTag k iv c ≠ t) : gcmDec k iv c t = none := if_pos h

/-- R195 (b): GCM decryption takes the tag of an encryption and restores its data. -/
theorem gcmDec_gcmEnc (k iv d : List Byte) : gcmDec k iv (gcmEnc k iv d).1 (gcmEnc k iv d).2 = some d :=
  (gcmDec_of_tag_eq rfl).trans (congrArg some (gcmCrypt_gcmCrypt k iv d))

theorem gcmTag_eq_gcmTagOf {k iv : List Byte} {h j0 : BitVec 128} (start : isGcmStart k iv h j0) (c : List Byte) :
    gcmTag k iv c = gcmTagOf k h j0 c := by
  obtain ⟨rfl, rfl⟩ := start
  rfl

/-- R188: byte i of the data is masked by byte i of the key stream from inc32(J0) on. -/
theorem gcmCrypt_getD {k iv : List Byte} {h j0 : BitVec 128} (start : isGcmStart k iv h j0) (d : List Byte) {i : Nat}
    (hi : i < d.length) : (gcmCrypt k iv d).getD i 0#8 = d.getD i 0#8 ^^^ gcmStreamByte k j0 i := by
  have hj0 : gcmJ0 k iv = j0 := by
    obtain ⟨rfl, rfl⟩ := start
    rfl
  rw [gcmCrypt, gctr, ctrWith_getD inc32 k _ d hi, hj0, ← Function.iterate_succ_apply, inc32_iterate]
  rfl

/-- Settles O45: masking is its own inverse, and GCM's tag is that of the ciphertext it decrypts. -/
theorem aesLaws : Obligations.AesLaws := by
  unfold Obligations.AesLaws
  exact fun k iv d => ⟨ctrWith_ctrWith .., gcmDec_gcmEnc k iv d, ctrWith_length .., gcmCrypt_length k iv d, gcmTag_length k iv _⟩

end Sys2Proof.Proofs
end

section
/-! PROOFS. The commands of the AES engine (41_aes.md R190 to R194): the checks they share, the completion of each, and what it leaves
in ADATA and TAG. -/

namespace Sys2Proof.Proofs

open Sys2Proof.Machine Sys2Proof.Laws

/-! ## The checks, and what follows them -/

/-- Settles O39: AES_SETKEY completes over its commit. -/
theorem aesSetkeyLoadsTheKey : Obligations.AesSetkeyLoadsTheKey := by
  unfold Obligations.AesSetkeyLoadsTheKey
  exact fun _ => rfl

theorem aesChecked_of_long {s : State} (run : Host.Outcome State Fault Refusal) (long : aesCap < aesN s) :
    aesChecked s run = raiseError .len s := if_pos long

theorem aesChecked_of_noKey {s : State} (run : Host.Outcome State Fault Refusal) (fits : aesN s ≤ aesCap) (noKey : s.keyValid = false) :
    aesChecked s run = raiseError .noKey s := (if_neg (not_lt.mpr fits)).trans (if_pos noKey)

theorem aesChecked_of_key {s : State} (run : Host.Outcome State Fault Refusal) (fits : aesN s ≤ aesCap) (key : s.keyValid = true) :
    aesChecked s run = run := (if_neg (not_lt.mpr fits)).trans (if_neg (by simp [key]))

/-- R188, R189: what GCM makes of ADATA[0..n): the ciphertext for AES_GCM_ENC, the plaintext for AES_GCM_DEC. -/
def gcmOutput (s : State) : List Byte := gcmCrypt (keyBytes s) (ivBytes s) (aesData s)

/-- R193: the state a successful AES_GCM_ENC leaves; `execAesGcmEnc_of_key` ties it to `exec`. -/
def afterGcmEnc (s : State) : State :=
  finish .none
    { bufStore .adata (gcmOutput s) s with tag := group16Of (gcmTag (keyBytes s) (ivBytes s) (gcmOutput s)) }

section Keyed

variable {s : State}

/-- R192: AES_CTR completes over its commit. -/
theorem execAesCtr_of_key (fits : aesN s ≤ aesCap) (key : s.keyValid = true) :
    exec .aesCtr s = .next (finish .none (bufStore .adata (aesCtrMode (keyBytes s) (ivBytes s) (aesData s)) s)) :=
  aesChecked_of_key _ fits key

/-- R193: AES_GCM_ENC completes over its commit. -/
theorem execAesGcmEnc_of_key (fits : aesN s ≤ aesCap) (key : s.keyValid = true) :
    exec .aesGcmEnc s = .next (afterGcmEnc s) :=
  aesChecked_of_key _ fits key

/-- R194: AES_GCM_DEC completes over its commit where the tag is that of the data. -/
theorem execAesGcmDec_of_some (fits : aesN s ≤ aesCap) (key : s.keyValid = true) {p : List Byte}
    (authentic : gcmDec (keyBytes s) (ivBytes s) (aesData s) (tagBytes s) = some p) :
    exec .aesGcmDec s = .next (finish .none (bufStore .adata p s)) := by
  refine (aesChecked_of_key _ fits key).trans ?_
  rw [authentic]
  rfl

/-- R194, R300: AES_GCM_DEC ends with ERR_AUTH where the tag is another. -/
theorem execAesGcmDec_of_none (fits : aesN s ≤ aesCap) (key : s.keyValid = true)
    (forged : gcmDec (keyBytes s) (ivBytes s) (aesData s) (tagBytes s) = none) :
    exec .aesGcmDec s = .next (finish .auth s) := by
  refine (aesChecked_of_key _ fits key).trans ?_
  rw [forged]
  rfl

end Keyed

/-- R191: each of the three data commands is the shared checks, and what follows them ends with no other error than ERR_AUTH. -/
theorem exec_eq_aesChecked {i : Instr} (hi : i ∈ [Instr.aesCtr, Instr.aesGcmEnc, Instr.aesGcmDec]) (s : State) :
    ∃ run, exec i s = aesChecked s run ∧ ∀ t, run = .next t → t.errCode = .none ∨ t.errCode = .auth := by
  simp only [List.mem_cons, List.not_mem_nil, or_false] at hi
  rcases hi with rfl | rfl | rfl
  · refine ⟨_, rfl, fun t h => .inl ?_⟩
    rw [(completeOk_eq_next _ t).mp h, finish_errCode]
  · refine ⟨_, rfl, fun t h => .inl ?_⟩
    rw [(completeOk_eq_next _ t).mp h, finish_errCode]
  · refine ⟨_, rfl, fun t h => ?_⟩
    split at h
    · rw [(raiseError_eq_next _ s t).mp h, finish_errCode]
      exact .inr rfl
    · rw [(completeOk_eq_next _ t).mp h, finish_errCode]
      exact .inl rfl

/-- Settles O40: the two checks end the command, length first; past both only ERR_AUTH is left. -/
theorem aesChecksLengthThenKey : Obligations.AesChecksLengthThenKey := by
  unfold Obligations.AesChecksLengthThenKey
  intro s i hi
  obtain ⟨run, hexec, hrun⟩ := exec_eq_aesChecked hi s
  rw [hexec]
  refine ⟨aesChecked_of_long run, aesChecked_of_noKey run, fun t fits key h => ?_⟩
  rw [aesChecked_of_key run fits key] at h
  rcases hrun t h with herr | herr <;> simp [herr]

/-! ## What the data commands leave in ADATA -/

theorem aesData_getD (s : State) {i : Nat} (hi : i < aesN s) : (aesData s).getD i 0#8 = bufByte .adata i s :=
  readBytes_getD _ _ _ _ hi _

section Stored

variable {s : State} {l : List Byte}

/-- R65: the stored data, byte by byte. -/
theorem bufByte_bufStore (b : Buffer) {i : Nat} (hi : i < l.length) : bufByte b i (bufStore b l s) = l.getD i 0#8 := by
  rw [bufByte, readByte_bufStore, if_pos (by omega), Nat.add_sub_cancel_left]
  rfl

theorem bufSlice_adata_bufStore (hl : l.length = aesN s) : bufSlice .adata 0 (aesN s) (bufStore .adata l s) = l :=
  hl ▸ bufSlice_bufStore .adata l s

theorem adata_keepsBytesOutside (hl : l.length = aesN s) : keepsBytesOutside 0x300 (aesN s) s (bufStore .adata l s) :=
  hl ▸ bufStore_keepsBytesOutside .adata l s

/-- R65: old data stored back where only they were overwritten restore the memory. -/
theorem readByte_bufStore_bufSlice {t : State} {b : Buffer} {n : Nat} (frame : keepsBytesOutside (bufBase b) n s t) (a : Nat) :
    readByte (bufStore b (bufSlice b 0 n s) t).mem a = readByte s.mem a := by
  rw [readByte_bufStore, bufSlice_length]
  split
  · next hin =>
    have hoffset : bufBase b + 0 + (a - bufBase b) = a := by omega
    rw [bufSlice, readBytes_getD _ _ _ _ (by omega), hoffset]
  · next hout => exact frame a hout

end Stored

@[simp] theorem gcmOutput_length (s : State) : (gcmOutput s).length = aesN s := by simp [gcmOutput]

/-- R188, R189: what GCM leaves in ADATA, byte by byte. -/
theorem bufByte_gcmOutput {s : State} {h j0 : BitVec 128} (start : isGcmStart (keyBytes s) (ivBytes s) h j0) {i : Nat}
    (hi : i < aesN s) :
    bufByte .adata i (bufStore .adata (gcmOutput s) s) = bufByte .adata i s ^^^ gcmStreamByte (keyBytes s) j0 i := by
  rw [bufByte_bufStore .adata (by simpa using hi), gcmOutput, gcmCrypt_getD start _ (by simpa using hi), aesData_getD s hi]

/-! ### What AES_GCM_ENC leaves -/

theorem aesData_afterGcmEnc (s : State) : aesData (afterGcmEnc s) = gcmOutput s :=
  bufSlice_adata_bufStore (gcmOutput_length s)

theorem tagBytes_afterGcmEnc (s : State) : tagBytes (afterGcmEnc s) = gcmTag (keyBytes s) (ivBytes s) (gcmOutput s) :=
  group16Bytes_group16Of _ (gcmTag_length _ _ _)

theorem afterGcmEnc_keepsBytesOutside (s : State) : keepsBytesOutside 0x300 (aesN s) s (afterGcmEnc s) :=
  adata_keepsBytesOutside (gcmOutput_length s)

/-- R195 (b): AES_GCM_DEC takes what AES_GCM_ENC leaves, and releases the old data. -/
theorem gcmDec_afterGcmEnc (s : State) :
    gcmDec (keyBytes (afterGcmEnc s)) (ivBytes (afterGcmEnc s)) (aesData (afterGcmEnc s)) (tagBytes (afterGcmEnc s)) =
      some (aesData s) := by
  rw [aesData_afterGcmEnc, tagBytes_afterGcmEnc]
  exact gcmDec_gcmEnc (keyBytes s) (ivBytes s) (aesData s)

/-! ## The obligations of the data commands -/

/-- Settles O41: the commit holds the masked data, and the store reaches nothing else. -/
theorem aesCtrEncrypts : Obligations.AesCtrEncrypts := by
  unfold Obligations.AesCtrEncrypts
  intro s fits key
  have hlen : (aesCtrMode (keyBytes s) (ivBytes s) (aesData s)).length = aesN s := by simp [aesCtrMode]
  refine ⟨_, execAesCtr_of_key fits key, rfl, fun i (hi : i < aesN s) => ?_, adata_keepsBytesOutside hlen⟩
  refine (bufByte_bufStore .adata (hi.trans_eq hlen.symm)).trans ?_
  rw [aesCtrMode, ctrWith_getD _ _ _ _ (hi.trans_eq (aesData_length s).symm), aesData_getD s hi, incFull_iterate]
  rfl

/-- Settles O42: the commit holds ciphertext and tag; GHASH, mul128 and the encodings are those of R186. -/
theorem aesGcmEncryptsAndTags : Obligations.AesGcmEncryptsAndTags := by
  unfold Obligations.AesGcmEncryptsAndTags
  refine ⟨fun s fits key h j0 start => ?_, fun _ => rfl, fun h _ _ => ghash_append h, fun _ _ _ _ => mul128_eq_rounds,
    fun v _ hi => ⟨beBytes_getD 16 v hi, intBe_beBytes v⟩, fun v _ hi => beBytes_getD 8 v hi⟩
  have hdata := aesData_afterGcmEnc s
  have htag := tagBytes_afterGcmEnc s
  have hspelled := (gcmTag_eq_gcmTagOf start (gcmOutput s)).trans (congrArg (gcmTagOf _ h j0) hdata.symm)
  exact ⟨afterGcmEnc s, execAesGcmEnc_of_key fits key, rfl, Prod.ext hdata htag, fun _ => bufByte_gcmOutput start,
    htag.trans hspelled, afterGcmEnc_keepsBytesOutside s⟩

/-- Settles O43: the data are released where the tag is theirs, else the command ends with ERR_AUTH. -/
theorem aesGcmDecryptsOnlyAuthentic : Obligations.AesGcmDecryptsOnlyAuthentic := by
  unfold Obligations.AesGcmDecryptsOnlyAuthentic
  intro s fits key h j0 start
  have htag := gcmTag_eq_gcmTagOf start (aesData s)
  refine ⟨htag, fun authentic => ?_, fun forged => ?_⟩
  · have released := gcmDec_of_tag_eq (htag.trans authentic.symm)
    have hlen := gcmOutput_length s
    exact ⟨_, execAesGcmDec_of_some fits key released, rfl, bufSlice_adata_bufStore hlen, fun _ => bufByte_gcmOutput start,
      adata_keepsBytesOutside hlen⟩
  · exact execAesGcmDec_of_none fits key (gcmDec_of_tag_ne fun same => forged (same.symm.trans htag))

/-- Settles O44: the decryption releases the old data and stores them where they stood. -/
theorem aesGcmRoundTrip : Obligations.AesGcmRoundTrip := by
  unfold Obligations.AesGcmRoundTrip
  intro s fits key
  exact ⟨afterGcmEnc s, _, execAesGcmEnc_of_key fits key, execAesGcmDec_of_some (s := afterGcmEnc s) fits key (gcmDec_afterGcmEnc s), rfl,
    readByte_bufStore_bufSlice (afterGcmEnc_keepsBytesOutside s)⟩

end Sys2Proof.Proofs
end

section
/-! PROOFS. The commands of the AX.25 framer that build addresses and frames (42_ax25_framer.md R220 to R230, R240 to R242): what the
FCS is, turn by turn, the fields of a frame byte by byte, and where they stand in UF once the frame is stored there. -/

namespace Sys2Proof.Proofs

open Sys2Proof.Machine Sys2Proof.Laws

/-! ## The frame check sequence -/

/-- R224: from turn k on the loop over the bits does the n turns that are left. -/
theorem crcBits_eq_fcsTurns {d : List Byte} {b : Byte} {c : Nat → BitVec 16} (h : fcsTurns d b c) (n k : Nat) (hnk : n + k = 8) :
    crcBits n (c k) = c 8 := by
  obtain ⟨-, turn⟩ := h
  induction n generalizing k with
  | zero =>
    obtain rfl : k = 8 := by omega
    rfl
  | succ n ih =>
    have hturn : crcBit (c k) = c (k + 1) := (turn k (by omega)).symm
    rw [crcBits, strict_eq, hturn]
    exact ih (k + 1) (by omega)

theorem crcBytes_append (d e : List Byte) (crc : BitVec 16) : crcBytes (d ++ e) crc = crcBytes e (crcBytes d crc) := by
  induction d generalizing crc with
  | nil => rfl
  | cons b d ih => simp only [List.cons_append, crcBytes, strict_eq, ih]

/-- R224: the final XOR undone, the loop's value is left. -/
theorem fcs_xor (d : List Byte) : fcs d ^^^ 0xFFFF#16 = crcBytes d 0xFFFF#16 := by
  rw [fcs, BitVec.xor_assoc, BitVec.xor_self, BitVec.xor_zero]

/-- R224: the FCS takes in one more byte by eight turns. -/
theorem fcs_append_of_fcsTurns {d : List Byte} {b : Byte} {c : Nat → BitVec 16} (h : fcsTurns d b c) :
    fcs (d ++ [b]) = c 8 ^^^ 0xFFFF#16 := by
  have hturns := crcBits_eq_fcsTurns h 8 0 rfl
  obtain ⟨hstart, -⟩ := h
  rw [hstart, fcs_xor] at hturns
  rw [fcs, crcBytes_append, crcBytes, strict_eq, hturns, crcBytes]

/-! ## The fields, bit by bit -/

/-- R222. -/
theorem ssidByte_eq (ssid : BitVec 4) (c e : Bool) :
    ssidByte ssid c e =
      ((BitVec.ofBool c).setWidth 8 <<< 7) ||| 0x60#8 ||| (ssid.setWidth 8 <<< 1) ||| (BitVec.ofBool e).setWidth 8 := by
  revert ssid c e
  decide

/-- R226. -/
theorem iCtrl0_eq : ∀ ns : BitVec 7, iCtrl0 ns = ns.setWidth 8 <<< 1 := by decide

/-- R226. -/
theorem iCtrl1_eq : ∀ (nr : BitVec 7) (p : Bool), iCtrl1 nr p = (nr.setWidth 8 <<< 1) ||| (BitVec.ofBool p).setWidth 8 := by decide

/-- R227. -/
theorem uCtrl_eq : ∀ (ucmd : BitVec 2) (pf : Bool),
    uCtrl ucmd pf = 0x03#8 ||| (ucmd.setWidth 8 <<< 2) ||| ((BitVec.ofBool pf).setWidth 8 <<< 4) := by decide

/-! ## AX25_ADDR -/

/-- R221, R223: the six characters. -/
theorem addrField_getD (cs : List Byte) (len : Nat) (ssid : BitVec 4) (c e : Bool) {k : Nat} (hk : k < 6) :
    (addrField cs len ssid c e).getD k 0#8 = addrChar cs len k := by
  rw [addrField, List.getD_append _ _ _ _ (by simpa using hk)]
  simp [hk]

theorem addrField_getD_six (cs : List Byte) (len : Nat) (ssid : BitVec 4) (c e : Bool) :
    (addrField cs len ssid c e).getD 6 0#8 = ssidByte ssid c e := by
  simp [addrField]

/-- R240: the address AX25_ADDR packs; `execAx25Addr_dest` and `execAx25Addr_src` tie it to `exec`. -/
def packedAddr (e : Bool) (s : State) : Group7 := group7Of (addrField (callSign s) (csLen s) (ssidField s) (cBit s) e)

theorem group7Bytes_packedAddr (e : Bool) (s : State) :
    group7Bytes (packedAddr e s) = addrField (callSign s) (csLen s) (ssidField s) (cBit s) e :=
  group7Bytes_group7Of _ (addrField_length ..)

/-- R221, R223: the characters of the packed address. -/
theorem packedAddr_char (e : Bool) (s : State) {k : Nat} (hk : k < 6) :
    (group7Bytes (packedAddr e s)).getD k 0#8 = (if k < csLen s then (callSign s).getD k 0#8 else 0x20#8) <<< 1 := by
  rw [group7Bytes_packedAddr, addrField_getD _ _ _ _ _ hk, addrChar]

/-- R222: the last byte of the packed address. -/
theorem packedAddr_ssid (e : Bool) (s : State) :
    (group7Bytes (packedAddr e s)).getD 6 0#8 =
      ((BitVec.ofBool (cBit s)).setWidth 8 <<< 7) ||| 0x60#8 ||| ((ssidField s).setWidth 8 <<< 1) |||
        (BitVec.ofBool e).setWidth 8 := by
  rw [group7Bytes_packedAddr, addrField_getD_six, ssidByte_eq]

theorem execAx25Addr_dest {s : State} (fits : csLen s ≤ callsignMax) :
    exec (.ax25Addr .dest) s = .next (finish .none { s with dest := packedAddr false s }) := if_neg (not_lt.mpr fits)

theorem execAx25Addr_src {s : State} (fits : csLen s ≤ callsignMax) :
    exec (.ax25Addr .src) s = .next (finish .none { s with src := packedAddr true s }) := if_neg (not_lt.mpr fits)

theorem execAx25Addr_of_long {s : State} (long : callsignMax < csLen s) (sel : AddrSel) :
    exec (.ax25Addr sel) s = .next (finish .arg s) := if_pos long

/-- Settles O47: both selections pack one address, with E = SEL, and commit it to their own group. -/
theorem ax25AddrPacksTheCallSign : Obligations.Ax25AddrPacksTheCallSign := by
  unfold Obligations.Ax25AddrPacksTheCallSign
  exact fun s => ⟨fun fits =>
    ⟨⟨_, execAx25Addr_dest fits, rfl, fun _ => packedAddr_char false s, packedAddr_ssid false s⟩,
      ⟨_, execAx25Addr_src fits, rfl, fun _ => packedAddr_char true s, packedAddr_ssid true s⟩⟩,
    execAx25Addr_of_long⟩

/-! ## Parts of a buffer -/

/-- R10: a slice that is p and q together is cut where q begins. -/
theorem bufSlice_eq_append {b : Buffer} {i k : Nat} {t : State} {p q : List Byte} (h : bufSlice b i k t = p ++ q) (j : Nat)
    (hj : i + p.length = j) (hk : j + q.length = k) : bufSlice b i j t = p ∧ bufSlice b j k t = q := by
  subst hj hk
  have hbyte : ∀ x, x < p.length + q.length → readByte t.mem (bufBase b + i + x) = (p ++ q).getD x resetByte := fun x hx => by
    rw [← h, bufSlice, readBytes_getD _ _ _ _ (by omega)]
  simp only [bufSlice, Nat.add_sub_cancel_left]
  constructor
  · refine readBytes_eq_of_getD _ _ _ resetByte fun x hx => ?_
    rw [hbyte x (by omega), List.getD_append _ _ _ _ hx]
  · refine readBytes_eq_of_getD _ _ _ resetByte fun x hx => ?_
    rw [← Nat.add_assoc, Nat.add_assoc (bufBase b + i), hbyte _ (by omega), List.getD_append_right _ _ _ _ (by omega),
      Nat.add_sub_cancel_left]

/-- R10: the bytes of a slice. -/
theorem bufByte_of_bufSlice {b : Buffer} {i j : Nat} {t : State} {l : List Byte} (h : bufSlice b i j t = l) (k : Nat)
    (hk : k < j - i) : bufByte b (i + k) t = l.getD k 0#8 := by
  rw [← h, bufSlice, readBytes_getD _ _ _ _ hk, bufByte, Nat.add_assoc]

/-! ## A frame in UF -/

/-- R225: the FCS bytes as the statements write them. -/
theorem fcsBytes_eq (d : List Byte) : fcsBytes d = [(fcs d).setWidth 8, (fcs d >>> 8).setWidth 8] := by
  have hbyte : ∀ (x : BitVec 16) (k : Nat), x.extractLsb' k 8 = (x >>> k).setWidth 8 := fun x k =>
    BitVec.eq_of_getLsbD_eq fun i hi => by simp [hi]
  rw [fcsBytes, hbyte, hbyte, BitVec.ushiftRight_zero]

/-- R220: UF of `t` holds the frame of two addresses and the n bytes `rest` behind them, and the other bytes of memory are those of
`s`. `frameStored_bufStore` ties it to the frames of the model. -/
structure FrameStored (dest src rest : List Byte) (n : Nat) (s t : State) : Prop where
  opens : bufByte .uf 0 t = 0x7E#8
  dest : bufSlice .uf 1 8 t = dest
  src : bufSlice .uf 8 15 t = src
  rest : bufSlice .uf 15 (15 + n) t = rest
  fcsLow : bufByte .uf (15 + n) t = (fcs (bufSlice .uf 1 (15 + n) t)).setWidth 8
  fcsHigh : bufByte .uf (15 + n + 1) t = (fcs (bufSlice .uf 1 (15 + n) t) >>> 8).setWidth 8
  closes : bufByte .uf (15 + n + 2) t = 0x7E#8
  frame : keepsBytesOutside 0x400 (15 + n + 3) s t

theorem frameStored_bufStore (s : State) {dest src rest : List Byte} {n : Nat} (hdest : dest.length = 7) (hsrc : src.length = 7)
    (hrest : rest.length = n) :
    FrameStored dest src rest n s (bufStore .uf (frameOf (dest ++ src ++ rest)) s) := by
  have hunder : (dest ++ src ++ rest).length = 14 + n := by simp only [List.length_append]; omega
  have hlen : (frameOf (dest ++ src ++ rest)).length = 15 + n + 3 := by rw [frameOf_length]; omega
  have hall := bufSlice_bufStore .uf (frameOf (dest ++ src ++ rest)) s
  have hkeeps := bufStore_keepsBytesOutside .uf (frameOf (dest ++ src ++ rest)) s
  rw [hlen] at hall hkeeps
  generalize bufStore .uf (frameOf (dest ++ src ++ rest)) s = t at hall hkeeps ⊢
  rw [frameOf, List.append_assoc] at hall
  obtain ⟨hopen, hbody⟩ := bufSlice_eq_append (p := [flagByte]) hall 1 rfl (by simp; omega)
  obtain ⟨hcovered, htrailer⟩ := bufSlice_eq_append hbody (15 + n) (by omega) rfl
  obtain ⟨haddrs, hinfo⟩ := bufSlice_eq_append hcovered 15 (by simp [hdest, hsrc]) (by omega)
  obtain ⟨hdestAt, hsrcAt⟩ := bufSlice_eq_append haddrs 8 (by omega) (by omega)
  have hthree : 15 + n + 3 - (15 + n) = 3 := by omega
  have htrailerByte := fun k (hk : k < 3) => bufByte_of_bufSlice htrailer k (hk.trans_eq hthree.symm)
  rw [fcsBytes_eq, ← hcovered] at htrailerByte
  exact ⟨bufByte_of_bufSlice hopen 0 (by decide), hdestAt, hsrcAt, hinfo, htrailerByte 0 (by decide), htrailerByte 1 (by decide),
    htrailerByte 2 (by decide), hkeeps⟩

/-! ## AX25_FRAME_I -/

/-- R229: what stands between the addresses and the FCS of an I-frame. -/
def iFrameRest (s : State) : List Byte := [iCtrl0 (nsField s), iCtrl1 (nrField s) (pBit s), pidByte] ++ bufAll .cw s

/-- R241: AX25_FRAME_I completes over a store of the frame. -/
theorem execAx25FrameI_eq (s : State) :
    exec .ax25FrameI s =
      .next (finish .none
        { bufStore .uf (frameOf (destAddr s ++ srcAddr s ++ iFrameRest s)) s with ufLen := 276#9 }) := by
  rw [iFrameRest, ← List.append_assoc]
  rfl

/-- Settles O48: the FCS by its turns; the stored frame has its fields where R229 puts them. -/
theorem ax25FrameIBuildsTheFrame : Obligations.Ax25FrameIBuildsTheFrame := by
  unfold Obligations.Ax25FrameIBuildsTheFrame
  refine ⟨⟨rfl, fun _ _ _ => fcs_append_of_fcsTurns⟩, fun s => ⟨_, execAx25FrameI_eq s, rfl, ?_⟩⟩
  have stored := frameStored_bufStore s (dest := destAddr s) (src := srcAddr s) (rest := iFrameRest s) (n := 258) rfl rfl
    (by simp [iFrameRest, bufCap])
  obtain ⟨hctrl, hinfo⟩ := bufSlice_eq_append stored.rest 18 rfl (by simp [bufCap])
  have hctrlByte := bufByte_of_bufSlice hctrl
  exact ⟨stored.opens, stored.dest, stored.src, (hctrlByte 0 (by decide)).trans (iCtrl0_eq _),
    (hctrlByte 1 (by decide)).trans (iCtrl1_eq _ _), hctrlByte 2 (by decide), hinfo, stored.fcsLow, stored.fcsHigh, stored.closes,
    stored.frame⟩

/-! ## AX25_FRAME_U -/

/-- R242: AX25_FRAME_U completes over a store of the frame. -/
theorem execAx25FrameU_of_legal (s : State) {ucmd : BitVec 2} (pf : Bool) (legal : ucmd ≠ 3#2) :
    exec (.ax25FrameU ucmd pf) s =
      .next (finish .none
        { bufStore .uf (frameOf (destAddr s ++ srcAddr s ++ [uCtrl ucmd pf, pidByte])) s with ufLen := 20#9 }) := if_neg legal

/-- Settles O49: the stored frame has its fields where R230 puts them; UCMD 3 is an error completion. -/
theorem ax25FrameUBuildsTheFrame : Obligations.Ax25FrameUBuildsTheFrame := by
  unfold Obligations.Ax25FrameUBuildsTheFrame
  refine fun s ucmd pf => ⟨fun legal => ⟨_, execAx25FrameU_of_legal s pf legal, rfl, ?_⟩, fun illegal => if_pos illegal⟩
  have stored := frameStored_bufStore s (dest := destAddr s) (src := srcAddr s) (rest := [uCtrl ucmd pf, pidByte]) (n := 2) rfl rfl rfl
  have hctrlByte := bufByte_of_bufSlice stored.rest
  exact ⟨stored.opens, stored.dest, stored.src, (hctrlByte 0 (by decide)).trans (uCtrl_eq _ _), hctrlByte 1 (by decide),
    stored.fcsLow, stored.fcsHigh, stored.closes, stored.frame⟩

end Sys2Proof.Proofs
end

section
/-! PROOFS. Bit stuffing (42_ax25_framer.md R232 to R237, R243): the bit order, where STUFFBITS inserts, how much, that no six 1s follow
one another behind it, and the command AX25_STUFF. -/

namespace Sys2Proof.Proofs

open Sys2Proof.Machine Sys2Proof.Laws

/-! ## The bit order -/

theorem bitsLSB_cons (b : Byte) (l : List Byte) : bitsLSB (b :: l) = byteBits b ++ bitsLSB l := List.flatMap_cons

/-- R232: bit k of byte i is bit 8 i + k of the stream. -/
theorem bitsLSB_getElem? (l : List Byte) {i k : Nat} (hi : i < l.length) (hk : k < 8) :
    (bitsLSB l)[8 * i + k]? = some ((l.getD i 0#8).getLsbD k) := by
  induction l generalizing i with
  | nil => simp at hi
  | cons b l ih =>
    rw [bitsLSB_cons]
    cases i with
    | zero =>
      rw [List.getElem?_append_left (by simp; omega)]
      simp [byteBits, hk]
    | succ i =>
      rw [List.getElem?_append_right (by simp; omega), byteBits_length, show 8 * (i + 1) + k - 8 = 8 * i + k by omega,
        ih (by simpa using hi), List.getD_cons_succ]

/-- R232, R261: packLSB takes the bits up to the last whole byte. -/
theorem bitsLSB_packLSB_take (b : List Bool) : bitsLSB (packLSB b) = b.take (8 * (b.length / 8)) := by
  have hbytes : bitsLSB (packLSB (b.take (8 * (b.length / 8)))) = b.take (8 * (b.length / 8)) :=
    bitsLSB_packLSB _ (by simp only [List.length_take]; omega)
  have hpack : packLSB b = packLSB (b.take (8 * (b.length / 8))) := by
    conv_lhs => rw [← List.take_append_drop (8 * (b.length / 8)) b, ← hbytes]
    exact packLSB_bitsLSB_append _ _ (by simp only [List.length_drop]; omega)
  rw [hpack, hbytes]

/-- R232: bit 8 i + k of the stream is bit k of byte i. -/
theorem packLSB_getLsbD (b : List Bool) {i k : Nat} (hi : i < b.length / 8) (hk : k < 8) :
    some (((packLSB b).getD i 0#8).getLsbD k) = b[8 * i + k]? := by
  rw [← bitsLSB_getElem? _ (by rwa [packLSB_length]) hk, bitsLSB_packLSB_take, List.getElem?_take_of_lt (by omega)]

/-! ## Where STUFFBITS inserts -/

theorem fiveOnes_append_right (a : List Bool) {c : List Bool} (h : fiveOnes c) : fiveOnes (a ++ c) := by
  obtain ⟨i, hi, hrun⟩ := h
  refine ⟨a.length + i, by rw [List.length_append]; omega, fun k hk => ?_⟩
  rw [Nat.add_assoc, List.getElem?_append_right (Nat.le_add_right ..), Nat.add_sub_cancel_left]
  exact hrun k hk

theorem fiveOnes_ones_append (c : List Bool) : fiveOnes (List.replicate 5 true ++ c) := by
  refine ⟨0, by simp, fun k hk => ?_⟩
  rw [Nat.zero_add, List.getElem?_append_left (by simpa using hk), List.getElem?_replicate, if_pos hk]

/-- R233: the length of the run of 1s at the end of `ones` 1s and the bits after them. -/
def onesAfter (ones : Nat) (a : List Bool) : Nat := a.foldl (fun n b => if b then n + 1 else 0) ones

theorem onesAfter_append (ones : Nat) (a c : List Bool) : onesAfter ones (a ++ c) = onesAfter (onesAfter ones a) c :=
  List.foldl_append

theorem onesAfter_ones (ones n : Nat) : onesAfter ones (List.replicate n true) = ones + n := by
  induction n generalizing ones with
  | zero => rfl
  | succ n ih => exact (ih (ones + 1)).trans (Nat.succ_add_eq_add_succ ones n)

/-- R233: bits in which no five 1s follow one another, the `ones` 1s before them counted in, pass unchanged, and the run at their end
counts on. -/
theorem stuffBits_append {ones : Nat} {a : List Bool} (rest : List Bool) (hones : ones < 5)
    (h : ¬fiveOnes (List.replicate ones true ++ a)) :
    stuffBits ones (a ++ rest) = a ++ stuffBits (onesAfter ones a) rest ∧ onesAfter ones a < 5 := by
  induction a generalizing ones with
  | nil => exact ⟨rfl, hones⟩
  | cons b a ih =>
    cases b with
    | false =>
      have hrest : ¬fiveOnes a := fun hfive => h <| by
        simpa using fiveOnes_append_right (List.replicate ones true ++ [false]) hfive
      obtain ⟨hstuff, hlt⟩ := ih (ones := 0) (by decide) hrest
      exact ⟨congrArg (false :: ·) hstuff, hlt⟩
    | true =>
      have hrun : List.replicate ones true ++ true :: a = List.replicate (ones + 1) true ++ a := by
        rw [List.replicate_succ', List.append_assoc, List.singleton_append]
      rw [hrun] at h
      have hfour : ones + 1 ≠ 5 := fun hfive => h (hfive ▸ fiveOnes_ones_append a)
      obtain ⟨hstuff, hlt⟩ := ih (by omega) h
      refine ⟨?_, hlt⟩
      rw [List.cons_append, stuffBits, if_neg hfour, hstuff]
      rfl

/-- R233: where no five 1s follow one another nothing is inserted. -/
theorem stuffBits_of_not_fiveOnes {b : List Bool} (h : ¬fiveOnes b) : stuffBits 0 b = b := by
  obtain ⟨hstuff, -⟩ := stuffBits_append (ones := 0) [] (by decide) h
  simpa [stuffBits] using hstuff

/-- R233: a 0 is inserted after the first five 1s that follow one another, and the count starts afresh. -/
theorem stuffBits_five_ones {a : List Bool} (rest : List Bool) (h : ¬fiveOnes (a ++ List.replicate 4 true)) :
    stuffBits 0 (a ++ List.replicate 5 true ++ rest) = a ++ List.replicate 5 true ++ false :: stuffBits 0 rest := by
  have hfive : List.replicate 5 true = List.replicate 4 true ++ [true] := rfl
  obtain ⟨hstuff, hlt⟩ := stuffBits_append (ones := 0) (a := a ++ List.replicate 4 true) (true :: rest) (by decide) h
  have hrun : onesAfter 0 (a ++ List.replicate 4 true) = 4 := by
    rw [onesAfter_append, onesAfter_ones] at hlt ⊢
    omega
  rw [hrun] at hstuff
  simpa [hfive, stuffBits] using hstuff

/-! ## How much is inserted -/

/-- R236: every inserted bit has five bits before it that are not shared. -/
theorem five_mul_stuffCount_le {ones : Nat} (hones : ones < 5) (b : List Bool) : 5 * stuffCount ones b ≤ ones + b.length := by
  induction b generalizing ones with
  | nil => simp [stuffCount]
  | cons x b ih =>
    cases x with
    | false =>
      have hrest := ih (ones := 0) (by decide)
      simp only [stuffCount, List.length_cons]
      omega
    | true =>
      rw [stuffCount, List.length_cons]
      split
      · have hrest := ih (ones := 0) (by decide)
        omega
      · have hrest := ih (ones := ones + 1) (by omega)
        omega

/-- R235: the length of a stuffed frame. -/
theorem stuffFrame_length (body : List Byte) :
    (stuffFrame body).length = 2 + (8 * body.length + stuffCount 0 (bitsLSB body) + 7) / 8 := by
  simp only [stuffFrame, List.length_cons, List.length_append, List.length_nil, packLSB_length, padBits_length, stuffBits_length,
    bitsLSB_length]
  omega

/-- Settles O51: the lengths by R235; each inserted bit takes five bits of the body. -/
theorem stuffedLengthBound : Obligations.StuffedLengthBound := by
  unfold Obligations.StuffedLengthBound
  intro body
  have hcount := five_mul_stuffCount_le (by decide : 0 < 5) (bitsLSB body)
  have hlen := stuffFrame_length body
  rw [bitsLSB_length] at hcount
  refine ⟨by rw [stuffBits_length, bitsLSB_length], hlen, ?_, fun hbody => ?_, fun hbody => ?_⟩ <;> omega

/-! ## No six 1s in a row -/

theorem runsOk_false_cons (ones : Nat) (s : List Bool) : runsOk ones (false :: s) = runsOk 0 s := by simp [runsOk]

theorem runsOk_true_cons (ones : Nat) (s : List Bool) : runsOk ones (true :: s) = true ↔ ones ≠ 5 ∧ runsOk (ones + 1) s = true := by
  by_cases h : ones = 5 <;> simp [runsOk, h]

theorem runsOk_zeros (ones n : Nat) : runsOk ones (List.replicate n false) = true := by
  induction n generalizing ones with
  | zero => rfl
  | succ n ih => rw [List.replicate_succ, runsOk_false_cons, ih]

/-- R260: the stuffed bits, and 0s behind them, hold no 1 after five 1s. -/
theorem runsOk_stuffBits {ones : Nat} (hones : ones < 5) (b : List Bool) (n : Nat) :
    runsOk ones (stuffBits ones b ++ List.replicate n false) = true := by
  induction b generalizing ones with
  | nil => exact runsOk_zeros ones n
  | cons x b ih =>
    have hfresh := ih (ones := 0) (by decide)
    cases x with
    | false => rwa [stuffBits, List.cons_append, runsOk_false_cons]
    | true =>
      rw [stuffBits]
      split
      · rw [List.cons_append, List.cons_append, runsOk_true_cons, runsOk_false_cons]
        exact ⟨by omega, hfresh⟩
      · rw [List.cons_append, runsOk_true_cons]
        exact ⟨by omega, ih (by omega)⟩

theorem runsOk_padBits (b : List Bool) : runsOk 0 (padBits (stuffBits 0 b)) = true := runsOk_stuffBits (by decide) b _

/-- R237: where no 1 follows five 1s, no six 1s follow one another; nor do they where the `ones` 1s before the bits are counted in. -/
theorem no_six_ones_of_runsOk {ones : Nat} {s : List Bool} (hones : ones ≤ 5) (h : runsOk ones s = true) :
    (¬∀ k, k < 6 - ones → s[k]? = some true) ∧ ∀ i, ¬∀ k, k < 6 → s[i + k]? = some true := by
  induction s generalizing ones with
  | nil => exact ⟨fun hrun => by simpa using hrun 0 (by omega), fun i hrun => by simpa using hrun 0 (by decide)⟩
  | cons b s ih =>
    have hparts : (¬∀ k, k < 6 - ones → (b :: s)[k]? = some true) ∧ ∀ i, ¬∀ k, k < 6 → s[i + k]? = some true := by
      cases b with
      | false =>
        rw [runsOk_false_cons] at h
        exact ⟨fun hrun => by simpa using hrun 0 (by omega), (ih (by decide) h).2⟩
      | true =>
        obtain ⟨hne, hs⟩ := (runsOk_true_cons ones s).mp h
        obtain ⟨hhead, htail⟩ := ih (by omega) hs
        exact ⟨fun hrun => hhead fun k hk => by simpa using hrun (k + 1) (by omega), htail⟩
    obtain ⟨hhead, htail⟩ := hparts
    refine ⟨hhead, fun i hrun => ?_⟩
    cases i with
    | zero => exact hhead fun k hk => by simpa using hrun k (by omega)
    | succ i => exact htail i fun k hk => by simpa [Nat.add_right_comm] using hrun k hk

/-- Settles O52: stuffing leaves no 1 after five 1s, and the flag holds six. -/
theorem noFlagInsideTheStuffedBody : Obligations.NoFlagInsideTheStuffedBody := by
  unfold Obligations.NoFlagInsideTheStuffedBody
  intro body i
  obtain ⟨-, hnoSix⟩ := no_six_ones_of_runsOk (by decide) (runsOk_padBits (bitsLSB body))
  have hflag : ∀ k, k < 6 → (0x7E#8).getLsbD (k + 1) = true := by decide
  refine ⟨hnoSix i, fun hrun => hnoSix (i + 1) fun k hk => ?_⟩
  rw [Nat.add_right_comm, Nat.add_assoc, ← hflag k hk]
  exact hrun (k + 1) (by omega)

/-! ## AX25_STUFF -/

/-- R234: the 0s of the padding. -/
theorem padBits_eq (b : List Bool) :
    ∃ n, n < 8 ∧ padBits b = b ++ List.replicate n false ∧ (padBits b).length % 8 = 0 :=
  ⟨(8 - b.length % 8) % 8, Nat.mod_lt _ (by decide), rfl, by rw [padBits_length, Nat.mul_mod_right]⟩

section Stuff

variable {s : State}

/-- R243, R297. -/
theorem execAx25Stuff_of_length (h : s.ufLen.toNat < 2 ∨ ufILen < s.ufLen.toNat) : exec .ax25Stuff s = .next (finish .len s) :=
  if_pos h

variable (hlow : 2 ≤ s.ufLen.toNat) (hhigh : s.ufLen.toNat ≤ ufILen)
include hlow hhigh

/-- R243: past the length check AX25_STUFF is the check of the stuffed length. -/
theorem execAx25Stuff_eq :
    exec .ax25Stuff s =
      if min s.txLimit.toNat frameCap < (stuffedUf s).length then .next (finish .overflow s)
      else .next (finish .none { bufStore .tx (stuffedUf s) s with txLen := BitVec.ofNat 9 (stuffedUf s).length }) :=
  if_neg (by omega)

/-- R243, R301. -/
theorem execAx25Stuff_of_long (long : min s.txLimit.toNat frameCap < (stuffedUf s).length) :
    exec .ax25Stuff s = .next (finish .overflow s) := (execAx25Stuff_eq hlow hhigh).trans (if_pos long)

/-- R243: AX25_STUFF completes over a store of the stuffed frame. -/
theorem execAx25Stuff_of_fits (fits : (stuffedUf s).length ≤ min s.txLimit.toNat frameCap) :
    exec .ax25Stuff s =
      .next (finish .none { bufStore .tx (stuffedUf s) s with txLen := BitVec.ofNat 9 (stuffedUf s).length }) :=
  (execAx25Stuff_eq hlow hhigh).trans (if_neg (not_lt.mpr fits))

end Stuff

/-- Settles O50: the bit order, the insertions and the padding as R232 to R234 put them; a stuffed frame that fits is stored in TX, and
its length fits TX_LEN. -/
theorem ax25StuffWritesTheStuffedFrame : Obligations.Ax25StuffWritesTheStuffedFrame := by
  unfold Obligations.Ax25StuffWritesTheStuffedFrame
  refine ⟨fun l => ⟨bitsLSB_length l, fun _ _ => bitsLSB_getElem? l⟩, fun b => ⟨packLSB_length b, fun _ _ => packLSB_getLsbD b⟩,
    fun _ => stuffBits_of_not_fiveOnes, fun _ => stuffBits_five_ones, padBits_eq, fun _ => rfl,
    fun s => ⟨execAx25Stuff_of_length, execAx25Stuff_of_long, fun hlow hhigh fits => ?_⟩⟩
  have hlen : (BitVec.ofNat 9 (stuffedUf s).length).toNat = (stuffedUf s).length :=
    Nat.mod_eq_of_lt (by have : (stuffedUf s).length ≤ min s.txLimit.toNat 331 := fits; omega)
  refine ⟨_, execAx25Stuff_of_fits hlow hhigh fits, rfl, hlen, ?_, ?_⟩
  · exact (congrArg (bufSlice .tx 0 · _) hlen).trans (bufSlice_bufStore .tx (stuffedUf s) s)
  · exact hlen.symm ▸ bufStore_keepsBytesOutside .tx (stuffedUf s) s

end Sys2Proof.Proofs
end

section
/-! PROOFS. The spec's check values, each a closed computation that the kernel carries out (R141, R142, R184, R187, R192, R193, R224,
R236, R243, R263). -/

namespace Sys2Proof.Proofs

open Sys2Proof.Machine

/-- Settles O46: every value is what the model's engine computes. -/
theorem engineCheckValues : Obligations.EngineCheckValues := by
  unfold Obligations.EngineCheckValues
  refine ⟨?fcs, ?stuffing, ?field, ?aes⟩
  case fcs => decide +kernel
  case stuffing => decide +kernel
  case field => decide +kernel
  case aes =>
    rintro k iv zeros16 rfl rfl rfl
    refine ⟨?cipher, ?hashKey, ?subkey, ?counterStart, ?keystream, ?oneBlock, ?noBlock⟩ <;> decide +kernel

end Sys2Proof.Proofs
end

section
/-! PROOFS. Bit unstuffing (43_ax25_deframer.md R260 to R263, R268 (a)): UNSTUFFBITS by its turns, which bits it keeps and what it reports
as Corrupt, that it undoes stuffing, and the command AX25_UNSTUFF. -/

namespace Sys2Proof.Proofs

open Sys2Proof.Machine Sys2Proof.Laws

/-! ## UNSTUFFBITS, turn by turn -/

/-- R260: UNSTUFFBITS with `ones` 1s seen in the current run; `unstuffBits_eq` ties it to `unstuffBits`. -/
def unstuffFrom (ones : Nat) (s : List Bool) : Option (List Bool) := if runsOk ones s then some (keptBits ones s) else none

theorem unstuffBits_eq (s : List Bool) : unstuffBits s = unstuffFrom 0 s := rfl

theorem unstuffFrom_nil (ones : Nat) : unstuffFrom ones [] = some [] := rfl

theorem unstuffFrom_five_true (s : List Bool) : unstuffFrom 5 (true :: s) = none := rfl

theorem unstuffFrom_five_false (s : List Bool) : unstuffFrom 5 (false :: s) = unstuffFrom 0 s := rfl

theorem unstuffFrom_cons {ones : Nat} (hones : ones < 5) (b : Bool) (s : List Bool) :
    unstuffFrom ones (b :: s) = (unstuffFrom (if b then ones + 1 else 0) s).map (b :: ·) := by
  by_cases hok : runsOk (if b then ones + 1 else 0) s = true <;> simp [unstuffFrom, runsOk, keptBits, hones.ne, hok]

/-! ## Where no five 1s follow one another -/

/-- R233, R260: bits in which no five 1s follow one another are kept, and the run at their end counts on. -/
theorem unstuffFrom_append {ones : Nat} (hones : ones < 5) {a : List Bool} (h : stuffCount ones a = 0) (rest : List Bool) :
    unstuffFrom ones (a ++ rest) = (unstuffFrom (onesAfter ones a) rest).map (a ++ ·) := by
  induction a generalizing ones with
  | nil => simp [onesAfter]
  | cons b a ih =>
    have htail : (if b then ones + 1 else 0) < 5 ∧ stuffCount (if b then ones + 1 else 0) a = 0 := by
      cases b with
      | false => exact ⟨Nat.zero_lt_succ 4, h⟩
      | true =>
        rw [stuffCount] at h
        split at h
        · omega
        · exact ⟨by simp; omega, h⟩
    obtain ⟨hlt, hcount⟩ := htail
    rw [List.cons_append, unstuffFrom_cons hones, ih hlt hcount, Option.map_map]
    rfl

theorem stuffCount_of_not_fiveOnes {b : List Bool} (h : ¬fiveOnes b) : stuffCount 0 b = 0 := by
  have hlen := stuffBits_length 0 b
  rw [stuffBits_of_not_fiveOnes h] at hlen
  omega

/-- R260: where no five 1s follow one another every bit is kept. -/
theorem unstuffBits_of_not_fiveOnes {b : List Bool} (h : ¬fiveOnes b) : unstuffBits b = some b := by
  simpa [unstuffBits_eq, unstuffFrom_nil] using unstuffFrom_append (by decide) (stuffCount_of_not_fiveOnes h) []

/-- R260: the first five 1s that follow one another are kept, and the bits behind them are read with the run at five. -/
theorem unstuffBits_five_ones {a : List Bool} (rest : List Bool) (h : ¬fiveOnes (a ++ List.replicate 4 true)) :
    unstuffBits (a ++ List.replicate 5 true ++ rest) = (unstuffFrom 5 rest).map (a ++ List.replicate 5 true ++ ·) := by
  have hrun : onesAfter 0 (a ++ List.replicate 4 true) = 4 := by
    obtain ⟨-, hlt⟩ := stuffBits_append (ones := 0) (a := a ++ List.replicate 4 true) [] (by decide) h
    rw [onesAfter_append, onesAfter_ones] at hlt ⊢
    omega
  have hfive : a ++ List.replicate 5 true = (a ++ List.replicate 4 true) ++ [true] := by simp
  have hbits := unstuffFrom_append (by decide) (stuffCount_of_not_fiveOnes h) (true :: rest)
  rw [hrun, unstuffFrom_cons (by decide), Option.map_map] at hbits
  rw [unstuffBits_eq, hfive, List.append_assoc, List.singleton_append, hbits]
  simp [Function.comp_def]

/-! ## Corrupt -/

theorem unstuffBits_eq_none_iff (s : List Bool) : unstuffBits s = none ↔ runsOk 0 s = false := by simp [unstuffBits]

/-- R260: a 1 after five 1s makes six 1s in a row, the `ones` 1s before the bits counted in. -/
theorem six_ones_of_not_runsOk {ones : Nat} {s : List Bool} (hones : ones ≤ 5) (h : runsOk ones s = false) :
    List.replicate 6 true <:+: List.replicate ones true ++ s := by
  induction s generalizing ones with
  | nil => exact nomatch h
  | cons b s ih =>
    cases b with
    | false =>
      rw [runsOk_false_cons] at h
      exact (ih (by decide) h).trans ⟨List.replicate ones true ++ [false], [], by simp⟩
    | true =>
      obtain rfl | hlt := hones.eq_or_lt
      · exact ⟨[], s, rfl⟩
      · rw [runsOk, if_neg hlt.ne] at h
        simpa [List.replicate_succ'] using ih hlt h

theorem getElem?_of_six_ones {s : List Bool} (h : List.replicate 6 true <:+: s) : ∃ i, ∀ k, k < 6 → s[i + k]? = some true := by
  obtain ⟨i, -, hrun⟩ := List.infix_iff_getElem?.mp h
  exact ⟨i, fun k hk => by rw [Nat.add_comm, hrun k (by simpa using hk), List.getElem_replicate]⟩

/-- Settles O54: UNSTUFFBITS fails at a 1 after five 1s; without such a 1 there are no six in a row. -/
theorem unstuffingDetectsSixOnes : Obligations.UnstuffingDetectsSixOnes := by
  unfold Obligations.UnstuffingDetectsSixOnes
  intro s
  rw [unstuffBits_eq_none_iff]
  constructor
  · exact fun corrupt => getElem?_of_six_ones (six_ones_of_not_runsOk (ones := 0) (by decide) corrupt)
  · rintro ⟨i, hrun⟩
    refine Bool.eq_false_iff.mpr fun ok => ?_
    exact (no_six_ones_of_runsOk (by decide) ok).2 i hrun

/-! ## AX25_UNSTUFF -/

section Unstuff

variable {s : State}

/-- R263, R297. -/
theorem execAx25Unstuff_of_length (h : s.rxLen.toNat < 2 ∨ frameCap < s.rxLen.toNat) :
    exec .ax25Unstuff s = .next (finish .len s) := if_pos h

variable (hlow : 2 ≤ s.rxLen.toNat) (hhigh : s.rxLen.toNat ≤ frameCap)
include hlow hhigh

/-- R262, R302. -/
theorem execAx25Unstuff_of_flag (h : bufByte .rx 0 s ≠ flagByte ∨ bufByte .rx (s.rxLen.toNat - 1) s ≠ flagByte) :
    exec .ax25Unstuff s = .next (finish .flag s) := (if_neg (by omega)).trans (if_pos h)

variable (hopen : bufByte .rx 0 s = flagByte) (hclose : bufByte .rx (s.rxLen.toNat - 1) s = flagByte)
include hopen hclose

/-- R263, R303. -/
theorem execAx25Unstuff_of_none (corrupt : unstuffedRx s = none) : exec .ax25Unstuff s = .next (finish .corrupt s) := by
  rw [exec, execAx25Unstuff, if_neg (by omega), if_neg (by simp [hopen, hclose]), corrupt, raiseError_eq]

/-- R263: past the checks of the stuffed frame AX25_UNSTUFF is the check of the unstuffed length. -/
theorem execAx25Unstuff_of_some {body : List Byte} (unstuffed : unstuffedRx s = some body) :
    exec .ax25Unstuff s =
      if ufILen < body.length + 2 then .next (finish .overflow s)
      else .next (finish .none
        { bufStore .uf (flagByte :: (body ++ [flagByte])) s with ufLen := BitVec.ofNat 9 (body.length + 2) }) := by
  rw [exec, execAx25Unstuff, if_neg (by omega), if_neg (by simp [hopen, hclose]), unstuffed]
  rfl

end Unstuff

/-- Settles O53: UNSTUFFBITS by its turns; AX25_UNSTUFF check by check, and the frame it stores in UF. -/
theorem ax25UnstuffRebuildsTheFrame : Obligations.Ax25UnstuffRebuildsTheFrame := by
  unfold Obligations.Ax25UnstuffRebuildsTheFrame
  refine ⟨fun _ => unstuffBits_of_not_fiveOnes, fun a rest h => ⟨?atTheEnd, ?corrupt, ?dropped⟩,
    fun b => ⟨packLSB_length b, fun _ _ => packLSB_getLsbD b⟩,
    fun s => ⟨execAx25Unstuff_of_length, fun hlow hhigh => ⟨execAx25Unstuff_of_flag hlow hhigh, fun hopen hclose =>
      ⟨fun corrupt => ?_, fun out ok => ?_⟩⟩⟩⟩
  case atTheEnd => simpa [unstuffFrom_nil] using unstuffBits_five_ones [] h
  case corrupt => rw [unstuffBits_five_ones _ h, unstuffFrom_five_true, Option.map_none]
  case dropped => rw [unstuffBits_five_ones _ h, unstuffFrom_five_false, unstuffBits_eq]
  · exact execAx25Unstuff_of_none hlow hhigh hopen hclose (by simp [unstuffedRx, unstuffBody, corrupt])
  · have unstuffed : unstuffedRx s = some (packLSB out) := by simp [unstuffedRx, unstuffBody, ok]
    have hexec := execAx25Unstuff_of_some hlow hhigh hopen hclose unstuffed
    have hlen : (flagByte :: (packLSB out ++ [flagByte])).length = out.length / 8 + 2 := by
      rw [flagged_length, packLSB_length]
    rw [packLSB_length] at hexec
    refine ⟨fun long => hexec.trans (if_pos long), fun fits => ⟨_, hexec.trans (if_neg (not_lt.mpr fits)), rfl, ?_, ?_⟩⟩
    · exact hlen ▸ bufSlice_bufStore .uf (flagByte :: (packLSB out ++ [flagByte])) s
    · exact hlen ▸ bufStore_keepsBytesOutside .uf (flagByte :: (packLSB out ++ [flagByte])) s

/-! ## Unstuffing undoes stuffing -/

theorem unstuffFrom_zeros {ones : Nat} (hones : ones < 5) (n : Nat) :
    unstuffFrom ones (List.replicate n false) = some (List.replicate n false) := by
  induction n generalizing ones with
  | zero => rfl
  | succ n ih =>
    rw [List.replicate_succ, unstuffFrom_cons hones, if_neg Bool.false_ne_true, ih (by decide)]
    rfl

/-- R268 (a): the inserted 0s are the bits UNSTUFFBITS drops; 0s behind them are kept. -/
theorem unstuffFrom_stuffBits {ones : Nat} (hones : ones < 5) (b : List Bool) (n : Nat) :
    unstuffFrom ones (stuffBits ones b ++ List.replicate n false) = some (b ++ List.replicate n false) := by
  induction b generalizing ones with
  | nil => exact unstuffFrom_zeros hones n
  | cons x b ih =>
    have hfresh := ih (ones := 0) (by decide)
    cases x with
    | false =>
      rw [stuffBits, List.cons_append, unstuffFrom_cons hones, if_neg Bool.false_ne_true, hfresh]
      rfl
    | true =>
      rw [stuffBits]
      split
      · next hfive =>
        rw [List.cons_append, List.cons_append, unstuffFrom_cons hones, if_pos rfl, hfive, unstuffFrom_five_false, hfresh]
        rfl
      · rw [List.cons_append, unstuffFrom_cons hones, if_pos rfl, ih (by omega)]
        rfl

/-- R268 (a): the padding of the stuffed body is what R261 drops. -/
theorem unstuffBody_stuffed (body : List Byte) :
    unstuffBody (packLSB (padBits (stuffBits 0 (bitsLSB body)))) = some body := by
  obtain ⟨n, hn, hpad, hbytes⟩ := padBits_eq (stuffBits 0 (bitsLSB body))
  rw [unstuffBody, bitsLSB_packLSB _ hbytes, hpad, unstuffBits_eq, unstuffFrom_stuffBits (by decide), Option.map_some,
    packLSB_bitsLSB_append body _ (by simpa using hn)]

/-- R10: two slices that meet are one. -/
theorem bufSlice_append (b : Buffer) {i j k : Nat} (hij : i ≤ j) (hjk : j ≤ k) (s : State) :
    bufSlice b i j s ++ bufSlice b j k s = bufSlice b i k s := by
  obtain ⟨hfirst, hsecond⟩ := bufSlice_eq_append (List.take_append_drop (j - i) (bufSlice b i k s)).symm j
    (by rw [List.length_take, bufSlice_length]; omega) (by rw [List.length_drop, bufSlice_length]; omega)
  rw [hfirst, hsecond, List.take_append_drop]

theorem bufSlice_one (b : Buffer) (i : Nat) (s : State) : bufSlice b i (i + 1) s = [bufByte b i s] := by
  rw [bufSlice, Nat.add_sub_cancel_left]
  rfl

/-- R262: a frame between two flags. -/
theorem bufSlice_flagged {b : Buffer} {n : Nat} {s : State} (hn : 2 ≤ n) (hopen : bufByte b 0 s = flagByte)
    (hclose : bufByte b (n - 1) s = flagByte) :
    bufSlice b 0 n s = flagByte :: (bufSlice b 1 (n - 1) s ++ [flagByte]) := by
  have hlast := bufSlice_one b (n - 1) s
  rw [Nat.sub_add_cancel (by omega), hclose] at hlast
  rw [← bufSlice_append b (Nat.zero_le 1) (by omega : 1 ≤ n), ← bufSlice_append b (by omega : 1 ≤ n - 1) (Nat.sub_le n 1), hlast,
    bufSlice_one, hopen, List.singleton_append]

theorem flagged_of_bufSlice {b : Buffer} {n : Nat} {s : State} {body : List Byte}
    (h : bufSlice b 0 n s = flagByte :: (body ++ [flagByte])) :
    bufByte b 0 s = flagByte ∧ bufSlice b 1 (n - 1) s = body ∧ bufByte b (n - 1) s = flagByte := by
  have hn : n = body.length + 2 := by simpa using congrArg List.length h
  subst hn
  obtain ⟨hopen, hrest⟩ := bufSlice_eq_append (p := [flagByte]) h 1 rfl (by simp; omega)
  obtain ⟨hbody, hclose⟩ := bufSlice_eq_append hrest (body.length + 1) (by omega) rfl
  exact ⟨bufByte_of_bufSlice hopen 0 (by decide), hbody, bufByte_of_bufSlice hclose 0 (by omega)⟩

/-- R268 (a), R263: where RX holds the stuffed frame of a body that fits UF, AX25_UNSTUFF stores the body between flags. -/
theorem execAx25Unstuff_of_stuffFrame {r : State} {body : List Byte} (hlen : r.rxLen.toNat = (stuffFrame body).length)
    (hrx : bufSlice .rx 0 r.rxLen.toNat r = stuffFrame body) (fits : body.length + 2 ≤ ufILen) :
    exec .ax25Unstuff r =
      .next (finish .none
        { bufStore .uf (flagByte :: (body ++ [flagByte])) r with ufLen := BitVec.ofNat 9 (body.length + 2) }) := by
  obtain ⟨hopen, hbody, hclose⟩ := flagged_of_bufSlice hrx
  have hlow : 2 ≤ r.rxLen.toNat := by rw [hlen, stuffFrame_length]; omega
  obtain ⟨-, -, -, hbound, -⟩ := stuffedLengthBound body
  have hhigh : r.rxLen.toNat ≤ frameCap := hlen.trans_le (hbound (Nat.le_of_add_le_add_right fits))
  have unstuffed : unstuffedRx r = some body := by rw [unstuffedRx, hbody, unstuffBody_stuffed]
  exact (execAx25Unstuff_of_some hlow hhigh hopen hclose unstuffed).trans (if_neg (not_lt.mpr fits))

/-- Settles O55: AX25_STUFF fits by R236, and AX25_UNSTUFF stores the old body between the two flags UF had. -/
theorem unstuffUndoesStuff : Obligations.UnstuffUndoesStuff := by
  unfold Obligations.UnstuffUndoesStuff
  intro s hlow hhigh hopen hclose hlimit
  have hbody : (bufSlice .uf 1 (s.ufLen.toNat - 1) s).length + 2 = s.ufLen.toNat := by rw [bufSlice_length]; omega
  obtain ⟨-, -, -, hbound, -⟩ := stuffedLengthBound (bufSlice .uf 1 (s.ufLen.toNat - 1) s)
  have hcap : (stuffedUf s).length ≤ frameCap := hbound (by omega)
  have hlen : (BitVec.ofNat 9 (stuffedUf s).length).toNat = (stuffedUf s).length :=
    Nat.mod_eq_of_lt (hcap.trans_lt (by decide))
  refine ⟨_, execAx25Stuff_of_fits hlow hhigh (le_min hlimit hcap), rfl, fun r hrxLen hrx => ?_⟩
  have hrxLen' : r.rxLen.toNat = (stuffedUf s).length := (congrArg BitVec.toNat hrxLen).trans hlen
  have htx : bufSlice .rx 0 r.rxLen.toNat r = stuffedUf s := by
    rw [hrxLen]
    refine hrx.trans ((congrArg (bufSlice .tx 0 · _) hlen).trans ?_)
    exact bufSlice_bufStore .tx (stuffedUf s) s
  have hframe := (flagged_length (bufSlice .uf 1 (s.ufLen.toNat - 1) s)).trans hbody
  refine ⟨_, execAx25Unstuff_of_stuffFrame hrxLen' htx (hbody.trans_le hhigh), rfl,
    (congrArg (BitVec.ofNat 9) hbody).trans (by simp), ?_⟩
  rw [bufSlice_flagged hlow hopen hclose]
  exact (congrArg (bufSlice .uf 0 · _) hframe).symm.trans (bufSlice_bufStore .uf _ r)

end Sys2Proof.Proofs
end

section
/-! PROOFS. The receiver (43_ax25_deframer.md R264 to R268): AX25_RECV check by check, what a receipt commits, and that it takes the
frames AX25_FRAME_I and AX25_FRAME_U build. -/

namespace Sys2Proof.Proofs

open Sys2Proof.Machine Sys2Proof.Laws

/-! ## The checks of the frame -/

/-- R265: the checks that come before any field: UF holds a frame of length l with its flags and its FCS. -/
structure FrameHolds (l : Nat) (s : State) : Prop where
  length : s.ufLen.toNat = l
  opens : bufByte .uf 0 s = 0x7E#8
  closes : bufByte .uf (l - 1) s = 0x7E#8
  fcsLow : bufByte .uf (l - 3) s = (fcs (bufSlice .uf 1 (l - 3) s)).setWidth 8
  fcsHigh : bufByte .uf (l - 2) s = (fcs (bufSlice .uf 1 (l - 3) s) >>> 8).setWidth 8

/-- R265, R225: the FCS check, byte by byte. -/
theorem fcsBytes_ne_iff (x y : Byte) (d : List Byte) :
    [x, y] ≠ fcsBytes d ↔ x ≠ (fcs d).setWidth 8 ∨ y ≠ (fcs d >>> 8).setWidth 8 := by
  simp only [fcsBytes_eq, ne_eq, List.cons.injEq, and_true, not_and_or]

section Checks

variable {l : Nat} {s : State}

/-- R265, R297. -/
theorem execAx25Recv_of_length (hU : s.ufLen.toNat ≠ ufULen) (hI : s.ufLen.toNat ≠ ufILen) :
    exec .ax25Recv s = .next (finish .len s) := if_pos ⟨hU, hI⟩

variable (hl : s.ufLen.toNat = l) (hlegal : l = ufULen ∨ l = ufILen)
include hl hlegal

/-- R265, R302. -/
theorem execAx25Recv_of_flag (h : bufByte .uf 0 s ≠ flagByte ∨ bufByte .uf (l - 1) s ≠ flagByte) :
    exec .ax25Recv s = .next (finish .flag s) := by
  subst hl
  exact (if_neg (by omega)).trans (if_pos h)

/-- R265, R304. -/
theorem execAx25Recv_of_fcs (hopen : bufByte .uf 0 s = flagByte) (hclose : bufByte .uf (l - 1) s = flagByte)
    (h : bufByte .uf (l - 3) s ≠ (fcs (bufSlice .uf 1 (l - 3) s)).setWidth 8 ∨
      bufByte .uf (l - 2) s ≠ (fcs (bufSlice .uf 1 (l - 3) s) >>> 8).setWidth 8) :
    exec .ax25Recv s = .next (finish .fcs s) := by
  subst hl
  exact (if_neg (by omega)).trans ((if_neg (by simp [hopen, hclose])).trans (if_pos ((fcsBytes_ne_iff ..).mpr h)))

end Checks

/-- Settles O56: the three checks, each past the ones before it. -/
theorem ax25RecvChecksTheFrame : Obligations.Ax25RecvChecksTheFrame := by
  unfold Obligations.Ax25RecvChecksTheFrame
  exact fun s => ⟨execAx25Recv_of_length, fun l hl hlegal => ⟨execAx25Recv_of_flag hl hlegal, execAx25Recv_of_fcs hl hlegal⟩⟩

/-- R264, R267: past the checks of the frame AX25_RECV goes by the length. -/
theorem execAx25Recv_of_frameHolds {l : Nat} {s : State} (h : FrameHolds l s) (hlegal : l = ufULen ∨ l = ufILen) :
    exec .ax25Recv s = if l = ufILen then recvIFrame s else recvUFrame s := by
  obtain ⟨rfl, hopen, hclose, hlow, hhigh⟩ := h
  have hfcs : ¬[bufByte .uf (s.ufLen.toNat - 3) s, bufByte .uf (s.ufLen.toNat - 2) s] ≠
      fcsBytes (bufSlice .uf 1 (s.ufLen.toNat - 3) s) := by
    rw [fcsBytes_ne_iff, hlow, hhigh]
    simp
  exact (if_neg (by omega)).trans ((if_neg (by simp [hopen, hclose, flagByte])).trans (if_neg hfcs))

/-! ## What a receipt reports -/

/-- R56: RXI, field by field. -/
theorem rxInfo_parts (u : Bool) (ucmd : BitVec 2) (pf : Bool) (c0 c1 : Byte) :
    (rxInfo u ucmd pf c0 c1).getLsbD 0 = u ∧ (rxInfo u ucmd pf c0 c1).extractLsb' 1 2 = ucmd ∧
      (rxInfo u ucmd pf c0 c1).getLsbD 3 = pf ∧ (rxInfo u ucmd pf c0 c1).extractLsb' 4 4 = 0#4 ∧
      (rxInfo u ucmd pf c0 c1).extractLsb' 8 8 = c0 ∧ (rxInfo u ucmd pf c0 c1).extractLsb' 16 8 = c1 := by
  obtain ⟨hu, hpf, -, -, -⟩ := rxInfo_bits u ucmd pf c0 c1
  obtain ⟨hucmd, hzero, -, -, hc1⟩ := rxInfo_fields u ucmd pf c0 c1
  refine ⟨hu, hucmd, hpf, hzero, ?_, hc1⟩
  simp (disch := decide) only [rxInfo_extractLsb', BitVec.extractLsb'_append_eq_of_le, BitVec.extractLsb'_append_eq_of_add_le]
  simp

/-- R266: an address of seven bytes of a buffer. -/
theorem group7Bytes_group7Of_bufSlice (b : Buffer) {i j : Nat} (s : State) (h : j - i = 7) :
    group7Bytes (group7Of (bufSlice b i j s)) = bufSlice b i j s :=
  group7Bytes_group7Of _ ((bufSlice_length ..).trans h)

/-! ## A received I-frame -/

/-- R266: what the receipt of an I-frame commits; `execAx25Recv_iFrame_accepted` ties it to `exec`. -/
def receivedIFrame (s : State) : State :=
  storeRxAddrs s
    { bufStore .cw (bufSlice .uf 18 273 s) s with
      rxi := rxInfo false 0#2 ((bufByte .uf 16 s).getLsbD 0) (bufByte .uf 15 s) (bufByte .uf 16 s) }

section IFrame

variable {s : State} (h : FrameHolds 276 s)
include h

theorem execAx25Recv_iFrame : exec .ax25Recv s = recvIFrame s := execAx25Recv_of_frameHolds h (.inr rfl)

/-- R264, R305. -/
theorem execAx25Recv_iFrame_type (hctrl : (bufByte .uf 15 s).getLsbD 0 = true) :
    exec .ax25Recv s = .next (finish .frameType s) := (execAx25Recv_iFrame h).trans (if_pos hctrl)

variable (hctrl : (bufByte .uf 15 s).getLsbD 0 = false)
include hctrl

/-- R265, R306. -/
theorem execAx25Recv_iFrame_pid (hpid : bufByte .uf 17 s ≠ pidByte) : exec .ax25Recv s = .next (finish .pid s) :=
  (execAx25Recv_iFrame h).trans ((if_neg (ne_true_of_eq_false hctrl)).trans (if_pos hpid))

theorem execAx25Recv_iFrame_accepted (hpid : bufByte .uf 17 s = pidByte) :
    exec .ax25Recv s = .next (finish .none (receivedIFrame s)) :=
  (execAx25Recv_iFrame h).trans ((if_neg (ne_true_of_eq_false hctrl)).trans (if_neg (not_not.mpr hpid)))

end IFrame

/-- R266: the information field fills CW. -/
theorem bufAll_cw_receivedIFrame (s : State) : bufAll .cw (receivedIFrame s) = bufSlice .uf 18 273 s :=
  bufAll_bufStore .cw (bufSlice .uf 18 273 s) s (bufSlice_length ..)

theorem receivedIFrame_keepsBytesOutside (s : State) : keepsBytesOutside 0x200 255 s (receivedIFrame s) := by
  have hkeeps := bufStore_keepsBytesOutside .cw (bufSlice .uf 18 273 s) s
  rwa [bufSlice_length] at hkeeps

/-- Settles O57: past the frame's checks the two field checks, then the commit, field by field. -/
theorem ax25RecvTakesAnIFrame : Obligations.Ax25RecvTakesAnIFrame := by
  unfold Obligations.Ax25RecvTakesAnIFrame
  intro s hlen hopen hclose hlow hhigh
  have h : FrameHolds 276 s := ⟨congrArg BitVec.toNat hlen, hopen, hclose, hlow, hhigh⟩
  refine ⟨execAx25Recv_iFrame_type h, execAx25Recv_iFrame_pid h, fun hctrl hpid => ?_⟩
  obtain ⟨htype, hucmd, hpf, hzero, hctrl0, hctrl1⟩ :=
    rxInfo_parts false 0#2 ((bufByte .uf 16 s).getLsbD 0) (bufByte .uf 15 s) (bufByte .uf 16 s)
  exact ⟨_, execAx25Recv_iFrame_accepted h hctrl hpid, rfl, htype, hucmd, hpf, hzero, hctrl0, hctrl1,
    group7Bytes_group7Of_bufSlice .uf s rfl, group7Bytes_group7Of_bufSlice .uf s rfl, bufAll_cw_receivedIFrame s,
    receivedIFrame_keepsBytesOutside s⟩

/-! ## A received U-frame -/

/-- R266: what the receipt of a U-frame commits; `execAx25Recv_uFrame_accepted` ties it to `exec`. -/
def receivedUFrame (s : State) : State :=
  storeRxAddrs s
    { s with
      rxi := rxInfo true ((bufByte .uf 15 s).extractLsb' 2 2) ((bufByte .uf 15 s).getLsbD 4) (bufByte .uf 15 s) 0#8 }

section UFrame

variable {s : State} (h : FrameHolds 20 s)
include h

theorem execAx25Recv_uFrame : exec .ax25Recv s = recvUFrame s := execAx25Recv_of_frameHolds h (.inl rfl)

/-- R264, R305. -/
theorem execAx25Recv_uFrame_type (hctrl : (bufByte .uf 15 s).extractLsb' 0 2 ≠ 3#2) :
    exec .ax25Recv s = .next (finish .frameType s) := (execAx25Recv_uFrame h).trans (if_pos hctrl)

variable (hctrl : (bufByte .uf 15 s).extractLsb' 0 2 = 3#2)
include hctrl

/-- R265, R306. -/
theorem execAx25Recv_uFrame_pid (hpid : bufByte .uf 16 s ≠ pidByte) : exec .ax25Recv s = .next (finish .pid s) :=
  (execAx25Recv_uFrame h).trans ((if_neg (not_not.mpr hctrl)).trans (if_pos hpid))

variable (hpid : bufByte .uf 16 s = pidByte)
include hpid

/-- R265: past the PID the check of UCMD. -/
theorem execAx25Recv_uFrame_eq :
    exec .ax25Recv s =
      if (bufByte .uf 15 s).extractLsb' 2 2 = 3#2 then .next (finish .ucmd s) else .next (finish .none (receivedUFrame s)) :=
  (execAx25Recv_uFrame h).trans ((if_neg (not_not.mpr hctrl)).trans (if_neg (not_not.mpr hpid)))

/-- R265, R307. -/
theorem execAx25Recv_uFrame_ucmd (hucmd : (bufByte .uf 15 s).extractLsb' 2 2 = 3#2) :
    exec .ax25Recv s = .next (finish .ucmd s) := (execAx25Recv_uFrame_eq h hctrl hpid).trans (if_pos hucmd)

theorem execAx25Recv_uFrame_accepted (hucmd : (bufByte .uf 15 s).extractLsb' 2 2 ≠ 3#2) :
    exec .ax25Recv s = .next (finish .none (receivedUFrame s)) := (execAx25Recv_uFrame_eq h hctrl hpid).trans (if_neg hucmd)

end UFrame

/-- Settles O58: past the frame's checks the three field checks, then the commit, field by field. -/
theorem ax25RecvTakesAUFrame : Obligations.Ax25RecvTakesAUFrame := by
  unfold Obligations.Ax25RecvTakesAUFrame
  intro s hlen hopen hclose hlow hhigh
  have h : FrameHolds 20 s := ⟨congrArg BitVec.toNat hlen, hopen, hclose, hlow, hhigh⟩
  refine ⟨execAx25Recv_uFrame_type h, execAx25Recv_uFrame_pid h, execAx25Recv_uFrame_ucmd h, fun hctrl hpid legal => ?_⟩
  obtain ⟨htype, hucmd, hpf, hzero, hctrl0, hctrl1⟩ :=
    rxInfo_parts true ((bufByte .uf 15 s).extractLsb' 2 2) ((bufByte .uf 15 s).getLsbD 4) (bufByte .uf 15 s) 0#8
  exact ⟨_, execAx25Recv_uFrame_accepted h hctrl hpid legal, rfl, htype, hucmd, hpf, hzero, hctrl0, hctrl1,
    group7Bytes_group7Of_bufSlice .uf s rfl, group7Bytes_group7Of_bufSlice .uf s rfl⟩

/-! ## The frames the framer builds -/

/-- R58, R85: three bytes of a word hold its low 24 bits. -/
theorem leWord_take_three (w : Word) : (leWord ((wordBytes w).take 3)).setWidth 24 = w.setWidth 24 := by
  conv_rhs => rw [← leWord_wordBytes w]
  refine BitVec.eq_of_getLsbD_eq fun i hi => ?_
  simp only [BitVec.getLsbD_setWidth, leWord_getLsbD, if_pos hi]
  rfl

/-- R58: a 7-byte group is the group of its bytes. -/
theorem group7Of_group7Bytes (g : Group7) : group7Of (group7Bytes g) = g := by
  have hparts : group7Of (group7Bytes g) =
      ⟨leWord (wordBytes g.r0), (leWord ((wordBytes (g.r1.setWidth 32)).take 3)).setWidth 24⟩ := rfl
  rw [hparts, leWord_wordBytes, leWord_take_three, BitVec.setWidth_setWidth_of_le _ (by decide), BitVec.setWidth_eq]

/-- R220, R265: a frame as the framer commits it passes the checks of the frame. -/
theorem FrameStored.frameHolds {dest src rest : List Byte} {n : Nat} {s t : State} (h : FrameStored dest src rest n s t)
    {len : BitVec 9} (hlen : len.toNat = 15 + n + 3) : FrameHolds (15 + n + 3) (finish .none { t with ufLen := len }) :=
  ⟨hlen, h.opens, h.closes, h.fcsLow, h.fcsHigh⟩

/-- R226, R264. -/
theorem iCtrl0_getLsbD_zero : ∀ ns : BitVec 7, (iCtrl0 ns).getLsbD 0 = false := by decide

/-- Settles O59: the built frame passes every check, and what is taken from it is what was put in. -/
theorem recvAcceptsTheBuiltIFrame : Obligations.RecvAcceptsTheBuiltIFrame := by
  unfold Obligations.RecvAcceptsTheBuiltIFrame
  intro s
  have stored := frameStored_bufStore s (dest := destAddr s) (src := srcAddr s) (rest := iFrameRest s) (n := 258) rfl rfl
    (by simp [iFrameRest, bufCap])
  obtain ⟨hctrl, hinfo⟩ := bufSlice_eq_append stored.rest 18 rfl (by simp [bufCap])
  have hctrlByte := bufByte_of_bufSlice hctrl
  have htype := (congrArg (BitVec.getLsbD · 0) (hctrlByte 0 (by decide))).trans (iCtrl0_getLsbD_zero (nsField s))
  obtain ⟨hreported, -⟩ := rxInfo_parts false 0#2 _ _ _
  exact ⟨_, _, execAx25FrameI_eq s,
    execAx25Recv_iFrame_accepted (stored.frameHolds (len := 276#9) rfl) htype (hctrlByte 2 (by decide)), rfl, hreported,
    (congrArg group7Of stored.dest).trans (group7Of_group7Bytes s.dest),
    (congrArg group7Of stored.src).trans (group7Of_group7Bytes s.src), (bufAll_cw_receivedIFrame _).trans hinfo⟩

/-- R227, R264, R266: the fields of a U-frame's control byte. -/
theorem uCtrl_fields : ∀ (ucmd : BitVec 2) (pf : Bool),
    (uCtrl ucmd pf).extractLsb' 0 2 = 3#2 ∧ (uCtrl ucmd pf).extractLsb' 2 2 = ucmd ∧ (uCtrl ucmd pf).getLsbD 4 = pf := by decide

/-- R266, R227: a frame whose control byte is that of a command is received as that command. -/
theorem execAx25Recv_uCtrl {t : State} {ucmd : BitVec 2} {pf : Bool} (h : FrameHolds 20 t)
    (hctrl : bufByte .uf 15 t = uCtrl ucmd pf) (hpid : bufByte .uf 16 t = pidByte) (legal : ucmd ≠ 3#2) :
    exec .ax25Recv t = .next (finish .none (receivedUFrame t)) ∧
      (receivedUFrame t).rxi = rxInfo true ucmd pf (uCtrl ucmd pf) 0#8 := by
  obtain ⟨htype, hucmd, hpf⟩ := uCtrl_fields ucmd pf
  constructor
  · exact execAx25Recv_uFrame_accepted h (by rw [hctrl, htype]) hpid (by rwa [hctrl, hucmd])
  · rw [receivedUFrame, storeRxAddrs_rxi, hctrl, hucmd, hpf]

/-- Settles O60: the built frame passes every check, and its control byte holds what was asked for. -/
theorem recvAcceptsTheBuiltUFrame : Obligations.RecvAcceptsTheBuiltUFrame := by
  unfold Obligations.RecvAcceptsTheBuiltUFrame
  intro s ucmd pf legal
  have stored := frameStored_bufStore s (dest := destAddr s) (src := srcAddr s) (rest := [uCtrl ucmd pf, pidByte]) (n := 2) rfl rfl rfl
  have hctrlByte := bufByte_of_bufSlice stored.rest
  obtain ⟨hrecv, hrxi⟩ :=
    execAx25Recv_uCtrl (stored.frameHolds (len := 20#9) rfl) (hctrlByte 0 (by decide)) (hctrlByte 1 (by decide)) legal
  obtain ⟨htype, hucmd, hpf, -⟩ := rxInfo_parts true ucmd pf (uCtrl ucmd pf) 0#8
  refine ⟨_, _, execAx25FrameU_of_legal s pf legal, hrecv, rfl, ?_⟩
  rw [finish_rxi, hrxi]
  exact ⟨htype, hucmd, hpf⟩

end Sys2Proof.Proofs
end

section
/-! PROOFS. The completion of a command (60_exceptions.md R290 to R295, R308 to R310): every command and every illegal word completes,
an error completion changes only the handshake, and an accepted command completes when its turns have passed. -/

namespace Sys2Proof.Proofs

open Sys2Proof.Machine Sys2Proof.Laws

/-! ## What every completion leaves -/

/-- R290, R291: what a completion in `t` of the command in flight in `s` leaves, with an error or with success: the sequencer idle, DONE
set, and what the host controls or may clear as it was. -/
structure CompletedFrom (s t : State) : Prop where
  /-- R291. -/
  idle : t.seq = .idle
  /-- R37. -/
  done : t.done = true
  /-- R38. -/
  accErr : t.accErr = s.accErr
  /-- R33. -/
  irqEn : t.irqEn = s.irqEn
  /-- R31. -/
  cur : t.cur = s.cur

theorem completedFrom_finish (c : ErrCode) (s : State) : CompletedFrom s (finish c s) := ⟨rfl, rfl, rfl, rfl, rfl⟩

/-- R33, R38, R31: no commit touches CTRL, ACCERR or CUR. -/
theorem Commits.completedFrom {s u : State} {i : Instr} (h : Commits s i u) : CompletedFrom s (finish .none u) := by
  cases h <;> exact ⟨rfl, rfl, rfl, rfl, rfl⟩

theorem Completes.completedFrom {s t : State} {i : Instr} (h : Completes s i t) : CompletedFrom s t := by
  obtain ⟨c, -, rfl⟩ | ⟨u, hu, rfl⟩ := h
  · exact completedFrom_finish c s
  · exact hu.completedFrom

/-- R290: an error completion is the command's initial state, but for the handshake. -/
theorem Completes.eq_finish_of_error {s t : State} {i : Instr} (h : Completes s i t) (herror : t.errCode ≠ .none) :
    t = finish t.errCode s := by
  obtain ⟨c, -, rfl⟩ | ⟨u, -, rfl⟩ := h
  · rfl
  · exact absurd (finish_errCode .none u) herror

/-- R310: no command stops the block. `exec_sameResult` has it of any two states that agree but for the host's side. -/
theorem exec_answers (i : Instr) (s : State) : ∃ t, exec i s = .next t := by
  obtain ⟨t, ht, -⟩ := exec_sameResult i s s
  exact ⟨t, ht⟩

/-- Settles O21: the only completion with an error code is that of the initial state. -/
theorem failedCommandChangesOnlyStatus : Obligations.FailedCommandChangesOnlyStatus := by
  unfold Obligations.FailedCommandChangesOnlyStatus
  exact fun i s t h herror => (exec_cases h).eq_finish_of_error herror

/-- Settles O22: every command answers, and what it answers is a completion. -/
theorem everyCommandCompletes : Obligations.EveryCommandCompletes := by
  unfold Obligations.EveryCommandCompletes
  intro i s
  obtain ⟨t, ht⟩ := exec_answers i s
  obtain ⟨idle, done, accErr, irqEn, cur⟩ := (exec_cases ht).completedFrom
  exact ⟨t, ht, idle, done, accErr, irqEn, cur⟩

/-! ## The Reed-Solomon context -/

/-- R156: RS_ENCODE checks for the context first. -/
theorem execRsEncode_of_not_ready {s : State} (h : s.rsReady = false) : exec .rsEncode s = .next (finish .notInit s) :=
  if_pos h

/-- R157: RS_DECODE checks for the context first. -/
theorem execRsDecode_of_not_ready {s : State} (h : s.rsReady = false) : exec .rsDecode s = .next (finish .notInit s) :=
  if_pos h

/-- Settles O30: both commands stop at their first check. -/
theorem rsCommandsNeedTheContext : Obligations.RsCommandsNeedTheContext := by
  unfold Obligations.RsCommandsNeedTheContext
  refine ⟨rfl, fun s h => ?_⟩
  simp only [List.forall_mem_cons, List.not_mem_nil, false_implies, implies_true, and_true]
  exact ⟨execRsEncode_of_not_ready h, execRsDecode_of_not_ready h⟩

/-! ## The step of a completion -/

/-- R116, R294: an illegal word's completion. -/
theorem step_of_illegal {s : State} {why : DecodeReject} (hbusy : s.seq = .busy) (hlat : s.latLeft = 0)
    (hwhy : decode s.cur = .illegal why) : step s = .next (finish .illegal s) := by
  rw [step, if_pos ((completionDue_iff s).mpr ⟨hbusy, hlat⟩), fetchWord, hwhy]
  rfl

/-- R115: a word that no command encodes to is illegal. -/
theorem decode_illegal_of_forall_encode_ne {w : Word} (h : ∀ i, encode i ≠ w) : ∃ why, decode w = .illegal why := by
  cases hw : decode w with
  | command i => exact absurd (encode_of_decode hw) (h i)
  | illegal why => exact ⟨why, rfl⟩

/-- Settles O6: such a word is illegal, and its completion is the error's. -/
theorem illegalWordCompletesWithErrIllegal : Obligations.IllegalWordCompletesWithErrIllegal := by
  unfold Obligations.IllegalWordCompletesWithErrIllegal
  refine ⟨rfl, fun s hbusy hlat hword => ?_⟩
  obtain ⟨why, hwhy⟩ := decode_illegal_of_forall_encode_ne hword
  exact step_of_illegal hbusy hlat hwhy

/-- R291, R310: where the completion is due the step is one, of a command or of an illegal word. -/
theorem step_completes {s : State} (hbusy : s.seq = .busy) (hlat : s.latLeft = 0) :
    ∃ t, step s = .next t ∧ CompletedFrom s t := by
  cases hcur : decode s.cur with
  | command i =>
    obtain ⟨t, ht⟩ := exec_answers i s
    exact ⟨t, (step_of_command hbusy hlat hcur).trans ht, (exec_cases ht).completedFrom⟩
  | illegal why => exact ⟨_, step_of_illegal hbusy hlat hcur, completedFrom_finish .illegal s⟩

theorem completedFrom_of_step {s t : State} (hbusy : s.seq = .busy) (hlat : s.latLeft = 0) (h : step s = .next t) :
    CompletedFrom s t := by
  obtain ⟨u, hu, hcompleted⟩ := step_completes hbusy hlat
  obtain rfl : t = u := by simpa [hu, eq_comm] using h
  exact hcompleted

/-- Settles O8: the turns of the host lead to the completion's step, still BUSY. -/
theorem acceptedCommandCompletes : Obligations.AcceptedCommandCompletes := by
  unfold Obligations.AcceptedCommandCompletes
  intro s n hbusy hlat hreset
  obtain ⟨u, hside, hzero, hrun⟩ := run_to_completion hbusy hlat hreset
  obtain ⟨t, ht, hcompleted⟩ := step_completes (hside.seq_eq.trans hbusy) hzero
  exact ⟨t, hrun.trans ht, hcompleted.idle, hcompleted.done⟩

/-- Settles O7: a due completion answers, and every other step is a turn of the host. -/
theorem everyStateSteps : Obligations.EveryStateSteps := by
  unfold Obligations.EveryStateSteps
  intro s
  by_cases hdue : completionDue s = true
  · obtain ⟨hbusy, hlat⟩ := (completionDue_iff s).mp hdue
    obtain ⟨t, ht, -⟩ := step_completes hbusy hlat
    exact ⟨t, ht⟩
  · exact ⟨hostTurn (tick s), if_neg hdue⟩

end Sys2Proof.Proofs
end

section
/-! PROOFS. The acceptance of a command (60_exceptions.md R292) and the interrupt output (R309; 10_state.md R70). -/

namespace Sys2Proof.Proofs

open Sys2Proof.Machine Sys2Proof.Laws

/-! ## CMD -/

theorem memWrite_cmd_of_idle {s : State} (hidle : s.seq = .idle) (w : Word) : memWrite .w4 0x004#12 w s = accept w s :=
  memWrite_regAddr (r := .cmd) w (.inl hidle)

/-- R87, R292: CMD is closed while BUSY. -/
theorem memWrite_cmd_of_busy {s : State} (hbusy : s.seq = .busy) (w : Word) :
    memWrite .w4 0x004#12 w s = { s with accErr := true } :=
  memWrite_of_refused w ((refusedAccess_iff_of_busy hbusy .w4 0x004#12).mpr (by decide))

/-- Settles O16: the acceptance leaves the sequencer BUSY with the word in CUR, so the step that is due runs it. -/
theorem commandAcceptance : Obligations.CommandAcceptance := by
  unfold Obligations.CommandAcceptance
  refine fun s w => ⟨fun hidle => ?accepted, fun hbusy => memWrite_cmd_of_busy hbusy w⟩
  rw [memWrite_cmd_of_idle hidle]
  exact ⟨rfl, fun _ hwhy => step_of_illegal rfl rfl hwhy, fun _ hi => step_of_command rfl rfl hi⟩

/-! ## The interrupt output -/

/-- R70: the output follows IRQ_EN while DONE is set. -/
theorem irqLines_of_done {s : State} (h : s.done = true) :
    irqLines s = if s.irqEn = true then [Config.irqLine] else [] := by
  simp [irqLines, irq, h]

theorem irqLines_of_not_done {s : State} (h : s.done = false) : irqLines s = [] := by simp [irqLines, irq, h]

theorem irqLines_of_not_irqEn {s : State} (h : s.irqEn = false) : irqLines s = [] := by simp [irqLines, irq, h]

/-- R309: a completion raises the interrupt where it is enabled. -/
theorem CompletedFrom.irqLines_eq {s t : State} (h : CompletedFrom s t) :
    irqLines t = if s.irqEn = true then [Config.irqLine] else [] := by
  rw [irqLines_of_done h.done, h.irqEn]

/-- Settles O17: a completion sets DONE and leaves IRQ_EN; each access is followed to the one of the two it clears. -/
theorem completionInterrupt : Obligations.CompletionInterrupt := by
  unfold Obligations.CompletionInterrupt
  refine ⟨fun s => rfl, fun i s t h => (exec_cases h).completedFrom.irqLines_eq,
    fun s t hbusy hlat h => (completedFrom_of_step hbusy hlat h).irqLines_eq,
    fun s w => ⟨fun hidle => ?acceptance, fun hbit => ?statusWrite, fun hbit => ?ctrlWrite, fun n off hrefused => ?refused⟩⟩
  case acceptance =>
    rw [memWrite_cmd_of_idle hidle]
    exact irqLines_of_not_done (accept_done w s)
  case statusWrite =>
    rw [memWrite_status]
    exact irqLines_of_not_done (by simp [hbit])
  case ctrlWrite =>
    rw [memWrite_ctrl]
    exact ⟨irqLines_of_not_irqEn hbit, rfl⟩
  case refused =>
    rw [memWrite_of_refused w hrefused, memRead_of_refused hrefused]
    exact ⟨rfl, rfl⟩

end Sys2Proof.Proofs
end

section
/-! PROOFS. One turn of the host, operation by operation (20_memory.md R80, R92; 30_encoding.md R118, R119), and the step as a turn. -/

namespace Sys2Proof.Proofs

open Sys2Proof.Machine Sys2Proof.Laws

/-! ## The step of a turn -/

/-- R31: while idle a step is a turn of the host and counts nothing. -/
theorem step_of_idle {s : State} (hidle : s.seq = .idle) : step s = .next (hostTurn s) := by
  have hbusy : busyFlag s = false := by simp [busyFlag, hidle]
  have hdue : ¬completionDue s = true := by simp [completionDue_iff, hidle]
  simp [step, hdue, tick, hbusy]

/-- R291: while BUSY a turn of the host is counted. -/
theorem step_of_busy_turn {s : State} (hbusy : s.seq = .busy) (hlat : s.latLeft ≠ 0) :
    step s = .next (hostTurn { s with latLeft := s.latLeft - 1 }) := by
  obtain ⟨n, hn⟩ := Nat.exists_eq_succ_of_ne_zero hlat
  rw [step_of_turns_left hn, tick, if_pos ((busyFlag_iff s).mpr hbusy)]

/-! ## The turn of each operation -/

theorem hostTurn_of_nil {s : State} (h : s.host = []) : hostTurn s = s := by
  unfold hostTurn
  rw [h]

/-- R118: an operation that does not ask to be repeated is performed once, and the host goes on to those after it. -/
theorem hostTurn_of_opDone {s : State} {op : HostOp} {rest : List HostOp} (h : s.host = op :: rest)
    (hdone : opDone op (performOp op { s with host := rest }) = true) :
    hostTurn s = performOp op { s with host := rest } := by
  unfold hostTurn
  rw [h]
  exact if_pos hdone

/-- R119: an operation that asks to be repeated stays the host's next one. -/
theorem hostTurn_of_not_opDone {s : State} {op : HostOp} {rest : List HostOp} (h : s.host = op :: rest)
    (hdone : opDone op (performOp op { s with host := rest }) = false) :
    hostTurn s = { performOp op { s with host := rest } with host := op :: rest } := by
  unfold hostTurn
  rw [h]
  exact if_neg (by simp [hdone])

/-- R85: what a target holds does not depend on the host's list. -/
theorem readTarget_withHost (n : BusWidth) (g : Target) (ops : List HostOp) (s : State) :
    readTarget n g { s with host := ops } = readTarget n g s := by
  cases g with
  | reg r => cases r <;> rfl
  | bytes a => rfl

/-- R80: neither the value of a read nor what it leaves of the block depends on the host's list. -/
theorem memRead_withHost (n : BusWidth) (off : BitVec 12) (ops : List HostOp) (s : State) :
    memRead n off { s with host := ops } = ((memRead n off s).1, { (memRead n off s).2 with host := ops }) := by
  have hadmitted : admitted n off.toNat { s with host := ops } = admitted n off.toNat s := admitted_congr rfl n off.toNat
  rcases memRead_cases n off s with ⟨hnone, he⟩ | ⟨g, hsome, he⟩
  · rw [he, memRead, hadmitted, hnone]
    rfl
  · rw [he, memRead, hadmitted, hsome]
    exact congrArg (·, _) (readTarget_withHost n g ops s)

/-- R118: the turn of a read hands the host the value that MemRead returns. -/
theorem hostTurn_read {s : State} {rest : List HostOp} {n : BusWidth} {off : BitVec 12} (h : s.host = .read n off :: rest) :
    hostTurn s = { (memRead n off s).2 with host := rest, readLog := (memRead n off s).1 :: s.readLog } := by
  rw [hostTurn_of_opDone h rfl, performOp, hostRead, memRead_withHost]

/-- R119: `wait` reads STATUS. -/
theorem performOp_wait (s : State) : performOp .wait s = { s with readLog := statusWord s :: s.readLog } := by
  rw [performOp, hostRead, memRead_status]

/-- R36, R119: `wait` is done when BUSY reads 0. -/
theorem opDone_performOp_wait (s : State) : opDone .wait (performOp .wait s) = !busyFlag s := by
  obtain ⟨hbusy, -⟩ := statusWord_bits s
  rw [performOp_wait, ← hbusy]
  rfl

/-- R119: the turn of `wait`, by SEQ. -/
theorem hostTurn_wait {s : State} {rest : List HostOp} (h : s.host = .wait :: rest) :
    hostTurn s = { s with host := if s.seq = .busy then s.host else rest, readLog := statusWord s :: s.readLog } := by
  have hdone : opDone .wait (performOp .wait { s with host := rest }) = !busyFlag s := opDone_performOp_wait _
  by_cases hbusy : s.seq = .busy
  · have hstays : (!busyFlag s) = false := by simp [busyFlag, hbusy]
    rw [hostTurn_of_not_opDone h (hdone.trans hstays), performOp_wait, if_pos hbusy, h]
    rfl
  · have hgoesOn : (!busyFlag s) = true := by simp [busyFlag, hbusy]
    rw [hostTurn_of_opDone h (hdone.trans hgoesOn), performOp_wait, if_neg hbusy]
    rfl

/-- Settles O5: the kinds of step first, then the turn of each operation of the host; only `wait` can ask to be repeated. -/
theorem stepRunsTheDecodedCommand : Obligations.StepRunsTheDecodedCommand := by
  unfold Obligations.StepRunsTheDecodedCommand
  exact ⟨fun _ _ => step_of_command, fun _ => step_of_idle, fun _ => step_of_busy_turn, fun _ => hostTurn_of_nil,
    fun _ _ _ _ _ => ⟨(hostTurn_of_opDone · rfl), hostTurn_read, (hostTurn_of_opDone · rfl), hostTurn_wait,
      (hostTurn_of_opDone · rfl), fun _ => ⟨(hostTurn_of_opDone · rfl), (hostTurn_of_opDone · rfl)⟩⟩⟩

end Sys2Proof.Proofs
end

section
/-! PROOFS. Reset (10_state.md R30 to R70; 70_reset_and_hazards.md R320, R321): what it leaves, as the host reads it, and that it takes
effect whatever is in flight. -/

namespace Sys2Proof.Proofs

open Sys2Proof.Machine Sys2Proof.Laws

/-! ## The reset state -/

/-- R320: TX_LIMIT is the one register that does not read 0. -/
theorem readReg_reset (r : Reg) :
    readReg r State.reset = if regAddr r = 0x03C#12 then 0x0000014B#32 else 0#32 := by cases r <;> rfl

/-- R59, R320: a reserved or misaligned offset reads 0 as well; TX_LIMIT's own offset is neither. -/
theorem memRead_reset {off : BitVec 12} (hlt : off.toNat < 0x100) :
    (memRead .w4 off State.reset).1 = if off = 0x03C#12 then 0x0000014B#32 else 0#32 := by
  rcases memRead_cases .w4 off State.reset with ⟨hrefused, hread⟩ | ⟨g, hadmitted, hread⟩ <;> rw [hread]
  · have htxLimit : off ≠ 0x03C#12 := by
      rintro rfl
      exact nomatch hrefused.symm.trans (admitted_regAddr (r := .txLimit) (.inl rfl))
    rw [if_neg htxLimit]
  · obtain ⟨htarget, -⟩ := admitted_some _ _ _ _ hadmitted
    cases g with
    | reg r =>
      rw [eq_regAddr_of_targetOf htarget]
      exact readReg_reset r
    | bytes a =>
      obtain ⟨-, hbuffer, -, -⟩ := targetOf_bytes _ _ _ htarget
      omega

/-- Settles O19: the reads of the register window by what each offset reaches; memory lists no cell, and IRQ_EN is 0. -/
theorem resetState : Obligations.ResetState := by
  unfold Obligations.ResetState
  exact ⟨fun _ hlt => memRead_reset hlt, fun _ => rfl, rfl, rfl, rfl, irqLines_of_not_irqEn rfl⟩

/-- Settles O28, by the invariant's parts. -/
theorem resetMeetsTheInvariant : Obligations.ResetMeetsTheInvariant := (stateInv_iff State.reset).mpr inv_reset

/-! ## The reset operation -/

/-- R320: the turn of a reset keeps the host's own side only. -/
theorem hostTurn_reset {s : State} {rest : List HostOp} (h : s.host = .reset :: rest) :
    hostTurn s = { State.reset with lats := s.lats, host := rest, readLog := s.readLog } := hostTurn_of_opDone h rfl

/-- Settles O20: a step with no completion due is the host's turn, and the count of a command in flight does not outlive the reset. -/
theorem resetAbandonsTheCommand : Obligations.ResetAbandonsTheCommand := by
  unfold Obligations.ResetAbandonsTheCommand
  intro s rest hhost hturnsLeft
  cases hseq : s.seq with
  | idle => exact (step_of_idle hseq).trans (congrArg _ (hostTurn_reset hhost))
  | busy => exact (step_of_busy_turn hseq (hturnsLeft hseq)).trans (congrArg _ (hostTurn_reset hhost))

end Sys2Proof.Proofs
end
